-- ==== Sys2Proof/Word.lean ====
section
/-! DEFINITION. Word types of the CHIP-8 core (spec 00_scope R7, R9; 10_state R22, R27, R37). -/

namespace Sys2Proof

/-- A byte: a V register, a timer, a memory cell (10_state R20, R22, R34). -/
abbrev Byte := BitVec 8

/-- Sixteen bits: an instruction word, I, PC, a stack entry (10_state R27, R29, R32). -/
abbrev Word := BitVec 16

/-- A 4-bit field of an instruction word (00_scope R9, the height `n`). -/
abbrev Nibble := BitVec 4

/-- A 12-bit address field `nnn` (00_scope R9). -/
abbrev Addr := BitVec 12

/-- The number of a V register, a field `x` or `y` (00_scope R9; 10_state R22). -/
abbrev Reg := Fin 16

/-- The number of a key (10_state R40). -/
abbrev Key := Fin 16

/-- The linear index of a display cell, `row * 64 + col` (10_state R37). -/
abbrev CellIndex := Fin 2048

/-- The display buffer: 32 rows of 64 one-bit cells, row-major (10_state R37). -/
abbrev Display := Vector (BitVec 64) 32

/-- The 80 bytes of the built-in glyph font (10_state R26). -/
abbrev Font := Vector Byte 80

end Sys2Proof
end

