-- ==== Sys2Proof/Syntax.lean ====
section
/-! DEFINITION. The 34 instructions, one constructor per row of spec/opcode_table.json (30_encoding R75 to R83).
An operand has exactly the width of its field (R72), so every value of `Instr` is an instruction of the machine. -/

namespace Sys2Proof

inductive Instr where
  /-- `00E0` clear display (R150). -/
  | cls
  /-- `00EE` return from subroutine (R101). -/
  | ret
  /-- `1nnn` jump (R102). -/
  | jp (nnn : Addr)
  /-- `2nnn` call subroutine (R103). -/
  | call (nnn : Addr)
  /-- `3xnn` skip if register equals immediate (R110). -/
  | seImm (x : Reg) (nn : Byte)
  /-- `4xnn` skip if register differs from immediate (R111). -/
  | sneImm (x : Reg) (nn : Byte)
  /-- `5xy0` skip if two registers are equal (R112). -/
  | seReg (x y : Reg)
  /-- `6xnn` load immediate (R120). -/
  | ldImm (x : Reg) (nn : Byte)
  /-- `7xnn` add immediate (R121). -/
  | addImm (x : Reg) (nn : Byte)
  /-- `8xy0` copy (R122). -/
  | ldReg (x y : Reg)
  /-- `8xy1` bitwise OR (R123). -/
  | orReg (x y : Reg)
  /-- `8xy2` bitwise AND (R124). -/
  | andReg (x y : Reg)
  /-- `8xy3` bitwise XOR (R125). -/
  | xorReg (x y : Reg)
  /-- `8xy4` add with carry out (R126). -/
  | addReg (x y : Reg)
  /-- `8xy5` subtract (R127). -/
  | subReg (x y : Reg)
  /-- `8xy6` shift right by one; all sixteen values of the y field are this instruction (R79, R128). -/
  | shr (x : Reg)
  /-- `8xy7` reverse subtract (R129). -/
  | subnReg (x y : Reg)
  /-- `8xyE` shift left by one; all sixteen values of the y field are this instruction (R79, R130). -/
  | shl (x : Reg)
  /-- `9xy0` skip if two registers differ (R113). -/
  | sneReg (x y : Reg)
  /-- `Annn` set index (R140). -/
  | ldI (nnn : Addr)
  /-- `Bnnn` indirect jump (R104). -/
  | jpV0 (nnn : Addr)
  /-- `Cxnn` random byte masked (R133). -/
  | rnd (x : Reg) (nn : Byte)
  /-- `Dxyn` draw sprite (R151). -/
  | drw (x y : Reg) (n : Nibble)
  /-- `Ex9E` skip if key pressed (R160). -/
  | skp (x : Reg)
  /-- `ExA1` skip if key not pressed (R161). -/
  | sknp (x : Reg)
  /-- `Fx07` read the delay timer (R162). -/
  | ldVxDT (x : Reg)
  /-- `Fx0A` wait for a key (R163). -/
  | ldVxK (x : Reg)
  /-- `Fx15` set the delay timer (R164). -/
  | ldDTVx (x : Reg)
  /-- `Fx18` set the sound timer (R165). -/
  | ldSTVx (x : Reg)
  /-- `Fx1E` add register to index, and load the sound timer (R141). -/
  | addI (x : Reg)
  /-- `Fx29` point I at a font glyph (R142). -/
  | ldF (x : Reg)
  /-- `Fx33` store binary-coded decimal (R144). -/
  | ldB (x : Reg)
  /-- `Fx55` bulk store of V0 to Vx (R145). -/
  | storeRegs (x : Reg)
  /-- `Fx65` bulk load of V0 to Vx (R146). -/
  | loadRegs (x : Reg)
  deriving DecidableEq, Repr

/-- Why bytes are no instruction. -/
inductive DecodeError where
  /-- The word matches no row of the opcode map (30_encoding R84). -/
  | illegalWord (w : Word)
  /-- Fewer than the two bytes of an instruction (30_encoding R70). -/
  | truncated
  deriving DecidableEq, Repr

end Sys2Proof
end

