-- ==== Sys2Proof/Decode.lean ====
section
/-! DEFINITION. The decoder, total on words and on bytes, and after it the encoder
(spec 30_encoding R70 to R86; 00_scope R9; 20_memory R51). -/

namespace Sys2Proof

/-- `op = w[15:12]` (00_scope R9). -/
def fieldOp (w : Word) : Nibble := w.extractLsb' 12 4

/-- `x = w[11:8]`. -/
def fieldX (w : Word) : Reg := (w.extractLsb' 8 4).toFin

/-- `y = w[7:4]`. -/
def fieldY (w : Word) : Reg := (w.extractLsb' 4 4).toFin

/-- `n = w[3:0]`. -/
def fieldN (w : Word) : Nibble := w.extractLsb' 0 4

/-- `nn = w[7:0]`. -/
def fieldNn (w : Word) : Byte := w.extractLsb' 0 8

/-- `nnn = w[11:0]`. -/
def fieldNnn (w : Word) : Addr := w.extractLsb' 0 12

/-- Family `op = 0x0`, the whole word must match (30_encoding R75). -/
def decode0 (w : Word) : Option Instr :=
  if w = 0x00E0#16 then some .cls
  else if w = 0x00EE#16 then some .ret
  else none

/-- Family `op = 0x8`, the low nibble selects (30_encoding R79). The y field of the shifts is ignored. -/
def decode8 (w : Word) : Option Instr :=
  match (fieldN w).toNat with
  | 0x0 => some (.ldReg (fieldX w) (fieldY w))
  | 0x1 => some (.orReg (fieldX w) (fieldY w))
  | 0x2 => some (.andReg (fieldX w) (fieldY w))
  | 0x3 => some (.xorReg (fieldX w) (fieldY w))
  | 0x4 => some (.addReg (fieldX w) (fieldY w))
  | 0x5 => some (.subReg (fieldX w) (fieldY w))
  | 0x6 => some (.shr (fieldX w))
  | 0x7 => some (.subnReg (fieldX w) (fieldY w))
  | 0xE => some (.shl (fieldX w))
  | _ => none

/-- Family `op = 0xE`, the low byte selects (30_encoding R81). -/
def decodeE (w : Word) : Option Instr :=
  match (fieldNn w).toNat with
  | 0x9E => some (.skp (fieldX w))
  | 0xA1 => some (.sknp (fieldX w))
  | _ => none

/-- Family `op = 0xF`, the low byte selects (30_encoding R82). -/
def decodeF (w : Word) : Option Instr :=
  match (fieldNn w).toNat with
  | 0x07 => some (.ldVxDT (fieldX w))
  | 0x0A => some (.ldVxK (fieldX w))
  | 0x15 => some (.ldDTVx (fieldX w))
  | 0x18 => some (.ldSTVx (fieldX w))
  | 0x1E => some (.addI (fieldX w))
  | 0x29 => some (.ldF (fieldX w))
  | 0x33 => some (.ldB (fieldX w))
  | 0x55 => some (.storeRegs (fieldX w))
  | 0x65 => some (.loadRegs (fieldX w))
  | _ => none

/-- The decoder: from the word alone to one of the 34 instructions, or `none` for an illegal word
(30_encoding R74, R84; families by their top nibble, R75 to R82). -/
def decode (w : Word) : Option Instr :=
  match (fieldOp w).toNat with
  | 0x0 => decode0 w
  | 0x1 => some (.jp (fieldNnn w))
  | 0x2 => some (.call (fieldNnn w))
  | 0x3 => some (.seImm (fieldX w) (fieldNn w))
  | 0x4 => some (.sneImm (fieldX w) (fieldNn w))
  | 0x5 => if fieldN w = 0 then some (.seReg (fieldX w) (fieldY w)) else none
  | 0x6 => some (.ldImm (fieldX w) (fieldNn w))
  | 0x7 => some (.addImm (fieldX w) (fieldNn w))
  | 0x8 => decode8 w
  | 0x9 => if fieldN w = 0 then some (.sneReg (fieldX w) (fieldY w)) else none
  | 0xA => some (.ldI (fieldNnn w))
  | 0xB => some (.jpV0 (fieldNnn w))
  | 0xC => some (.rnd (fieldX w) (fieldNn w))
  | 0xD => some (.drw (fieldX w) (fieldY w) (fieldN w))
  | 0xE => decodeE w
  | _ => decodeF w

/-- The word of two bytes, the byte at the lower address first (20_memory R51). -/
def wordOfBytes (hi lo : Byte) : Word := BitVec.ofNat 16 (hi.toNat * 256 + lo.toNat)

/-- Decoding a stream of bytes, rejecting by name; the answer holds the bytes after the instruction
(30_encoding R70: an instruction is exactly 2 bytes). -/
def decodeBytes : List Byte → Except DecodeError (Instr × List Byte)
  | hi :: lo :: rest =>
    match decode (wordOfBytes hi lo) with
    | some i => .ok (i, rest)
    | none => .error (.illegalWord (wordOfBytes hi lo))
  | _ => .error .truncated

/-- The bytes of a word, in the order in which memory holds them (30_encoding R86). -/
def bytesOfWord (w : Word) : Byte × Byte :=
  (BitVec.ofNat 8 (w.toNat / 256), BitVec.ofNat 8 (w.toNat % 256))

/-- Formats `NNN`, `XNN`, `XY`/`XYN` and `X` (30_encoding R73), each `match + x * 256 + y * 16 + n` (R86). -/
def packNnn (base : Nat) (nnn : Addr) : Word := BitVec.ofNat 16 (base + nnn.toNat)

def packXnn (base : Nat) (x : Reg) (nn : Byte) : Word := BitVec.ofNat 16 (base + x.val * 256 + nn.toNat)

def packXy (base : Nat) (x y : Reg) : Word := BitVec.ofNat 16 (base + x.val * 256 + y.val * 16)

def packXyn (base : Nat) (x y : Reg) (n : Nibble) : Word :=
  BitVec.ofNat 16 (base + x.val * 256 + y.val * 16 + n.toNat)

def packX (base : Nat) (x : Reg) : Word := BitVec.ofNat 16 (base + x.val * 256)

/-- The encoder (30_encoding R86); SHR and SHL are encoded with y = 0. -/
def encode : Instr → Word
  | .cls => 0x00E0#16
  | .ret => 0x00EE#16
  | .jp nnn => packNnn 0x1000 nnn
  | .call nnn => packNnn 0x2000 nnn
  | .seImm x nn => packXnn 0x3000 x nn
  | .sneImm x nn => packXnn 0x4000 x nn
  | .seReg x y => packXy 0x5000 x y
  | .ldImm x nn => packXnn 0x6000 x nn
  | .addImm x nn => packXnn 0x7000 x nn
  | .ldReg x y => packXy 0x8000 x y
  | .orReg x y => packXy 0x8001 x y
  | .andReg x y => packXy 0x8002 x y
  | .xorReg x y => packXy 0x8003 x y
  | .addReg x y => packXy 0x8004 x y
  | .subReg x y => packXy 0x8005 x y
  | .shr x => packX 0x8006 x
  | .subnReg x y => packXy 0x8007 x y
  | .shl x => packX 0x800E x
  | .sneReg x y => packXy 0x9000 x y
  | .ldI nnn => packNnn 0xA000 nnn
  | .jpV0 nnn => packNnn 0xB000 nnn
  | .rnd x nn => packXnn 0xC000 x nn
  | .drw x y n => packXyn 0xD000 x y n
  | .skp x => packX 0xE09E x
  | .sknp x => packX 0xE0A1 x
  | .ldVxDT x => packX 0xF007 x
  | .ldVxK x => packX 0xF00A x
  | .ldDTVx x => packX 0xF015 x
  | .ldSTVx x => packX 0xF018 x
  | .addI x => packX 0xF01E x
  | .ldF x => packX 0xF029 x
  | .ldB x => packX 0xF033 x
  | .storeRegs x => packX 0xF055 x
  | .loadRegs x => packX 0xF065 x

/-- The two bytes of an instruction whose bits are `w`, of which the table gives `nbits`; the bits above are 0. -/
def tableWordBytes (nbits w : Nat) : Byte × Byte := bytesOfWord (BitVec.ofNat 16 (w % 2 ^ nbits))

/-- What the decoder reads from an instruction whose bits are `w` as spec/opcode_table.json numbers them: the
word laid out as memory holds it (20_memory R51), then given to the decoder of bytes. -/
def decodeTableWord (nbits w : Nat) : Option Instr :=
  match decodeBytes [(tableWordBytes nbits w).1, (tableWordBytes nbits w).2] with
  | .ok (i, _) => some i
  | .error _ => none

end Sys2Proof
end

