-- ==== Sys2Proof/Config.lean ====
section
/-! DEFINITION. What one implementation leaves open: the source of random bytes (spec 43_alu R134, 00_scope R6).
The FONT and RESET parameters are not here: they are arguments of Construct (Sys2Proof/Machine/State.lean, `State.construct`). -/

namespace Sys2Proof

/-- The random byte `rnd` of the k-th draw (43_alu R134): a free value, any byte at all. Nothing is assumed of it,
neither a distribution nor independence of draws. -/
opaque Config.randomByte : Nat → Byte

end Sys2Proof
end

