-- ==== Sys2Proof/Machine/Params.lean ====
section
/-! DEFINITION. The fixed sizes and addresses of the machine (spec 00_scope R5). -/

namespace Sys2Proof.Machine

/-- MEM_SIZE: addresses 0x000 to 0xFFF. -/
abbrev memSize : Nat := 4096

/-- PROG_BASE: where Load puts the image, and the reset value of PC. -/
abbrev progBase : Nat := 0x200

/-- FONT_BASE: the address of the first font byte. -/
abbrev fontBase : Nat := 0x050

/-- FONT_SIZE. -/
abbrev fontSize : Nat := 80

/-- GLYPH_SIZE. -/
abbrev glyphSize : Nat := 5

/-- MAX_IMAGE: the largest image Load accepts (50_host_interface R172; 90_conflicts C2). -/
abbrev maxImage : Nat := 3583

/-- INSN_BYTES, as an amount to add to PC. -/
abbrev insnBytes : Word := 2#16

end Sys2Proof.Machine
end

