-- ==== Sys2Proof/Machine/Font.lean ====
section
/-! DEFINITION. The default glyph font and what a memory byte holds before anything writes it
(spec 10_state R21, R26; 20_memory R50, R66). -/

namespace Sys2Proof.Machine

/-- The default of the FONT parameter: the table of 10_state R26, glyphs 0 to F, five bytes each.
PRESUMED: the spec gives this table 'from general knowledge, not in source' (log entry 1). -/
def defaultFont : Font :=
  #v[0xF0, 0x90, 0x90, 0x90, 0xF0,
     0x20, 0x60, 0x20, 0x20, 0x70,
     0xF0, 0x10, 0xF0, 0x80, 0xF0,
     0xF0, 0x10, 0xF0, 0x10, 0xF0,
     0x90, 0x90, 0xF0, 0x10, 0x10,
     0xF0, 0x80, 0xF0, 0x10, 0xF0,
     0xF0, 0x80, 0xF0, 0x90, 0xF0,
     0xF0, 0x10, 0x20, 0x40, 0x40,
     0xF0, 0x90, 0xF0, 0x90, 0xF0,
     0xF0, 0x90, 0xF0, 0x10, 0xF0,
     0xF0, 0x90, 0xF0, 0x90, 0x90,
     0xE0, 0x90, 0xE0, 0x90, 0xE0,
     0xF0, 0x80, 0x80, 0x80, 0xF0,
     0xE0, 0x90, 0x90, 0x90, 0xE0,
     0xF0, 0x80, 0xF0, 0x80, 0xF0,
     0xF0, 0x80, 0xF0, 0x80, 0x80]

/-- What an address reads as before anything writes it: the FONT byte in 0x050..0x09F, else 0
(10_state R21; 20_memory R66). -/
def initialByte (font : Font) (a : Nat) : Byte :=
  if h : fontBase ≤ a ∧ a < fontBase + fontSize then font[a - fontBase]'(by have := h.1; have := h.2; simp only [fontBase, fontSize] at *; omega) else 0

end Sys2Proof.Machine
end

