-- ==== Sys2Proof/Machine/Memory.lean ====
section
/-! DEFINITION. Memory (spec 10_state R20, R21; 20_memory R50, R58, R59, R66): the cells that differ from the reset
contents, in one canonical form, and the two operations on one byte. -/

namespace Sys2Proof.Machine

/-- The memory of one machine: the FONT it was constructed with (00_scope R6), which never changes, and the cells that
differ from what `initialByte` gives, addresses strictly rising. -/
structure Memory where
  font : Font
  cells : List Host.Cell
  deriving DecidableEq, Repr

/-- The listed byte at an address. -/
def findCell : List Host.Cell → Nat → Option Byte
  | [], _ => none
  | (c, v) :: rest, a => if c = a then some v else findCell rest a

/-- The list with byte `v` at address `a`, where `d` is what an unlisted `a` reads as. -/
def putCell (d : Byte) (a : Nat) (v : Byte) : List Host.Cell → List Host.Cell
  | [] => if v = d then [] else [(a, v)]
  | (c, u) :: rest =>
    if c < a then (c, u) :: putCell d a v rest
    else if c = a then (if v = d then rest else (a, v) :: rest)
    else (if v = d then (c, u) :: rest else (a, v) :: (c, u) :: rest)

/-- The canonical form of a list of cells: addresses from `lo` on strictly rising and below 4096, and no cell that
equals the reset contents. -/
def cellsWf (font : Font) : Nat → List Host.Cell → Bool
  | _, [] => true
  | lo, (c, v) :: rest => decide (lo ≤ c) && decide (c < memSize) && (v != initialByte font c) && cellsWf font (c + 1) rest

/-- The memory is in canonical form. -/
def Memory.wf (m : Memory) : Bool := cellsWf m.font 0 m.cells

/-- Memory right after Construct(FONT): nothing listed (10_state R21). -/
def Memory.initial (font : Font) : Memory := ⟨font, []⟩

/-- The byte at an address: what was last written there, else the reset contents (20_memory R60, R66). -/
def Memory.read (m : Memory) (a : Nat) : Byte := (findCell m.cells a).getD (initialByte m.font a)

/-- Storing a byte. Every address of 0x000..0xFFF takes it, the font and the reserved range included (20_memory R58).
An address above 0xFFF does not exist; the operations that form one raise a fatal before they come here (R55). -/
def Memory.write (m : Memory) (a : Nat) (v : Byte) : Memory :=
  if a < memSize then { m with cells := putCell (initialByte m.font a) a v m.cells } else m

/-- Storing bytes at ascending addresses from `a` (20_memory R52). -/
def Memory.writeBytes (m : Memory) (a : Nat) : List Byte → Memory
  | [] => m
  | v :: rest => (m.write a v).writeBytes (a + 1) rest

end Sys2Proof.Machine
end

