-- ==== Sys2Proof/Machine/ResetValues.lean ====
section
/-! DEFINITION. The RESET parameter (spec 00_scope R6), what a construction takes for the registers whose reset value the
source does not give, and its default, one definition for each value (70_reset_and_hazards R210; the spec's decision
D2, log entry 4). Memory, font and PC are the source's. -/

namespace Sys2Proof.Machine

/-- Reset value of every V register (10_state R24). DESIGN CHOICE (D2). -/
def resetV : Vector Byte 16 := Vector.replicate 16 0

/-- Reset value of I (10_state R28). DESIGN CHOICE (D2). -/
def resetI : Word := 0

/-- Reset value of PC (10_state R30), the source's. -/
def resetPc : Word := 0x200

/-- Reset value of SP: the stack is empty (10_state R33). DESIGN CHOICE (D2). -/
def resetSp : Fin 17 := 0

/-- Reset value of the stack entries (10_state R33), which no program can observe. DESIGN CHOICE (D2). -/
def resetStack : Vector Word 16 := Vector.replicate 16 0

/-- Reset value of DT and ST (10_state R35). DESIGN CHOICE (D2). -/
def resetTimer : Byte := 0

/-- Reset value of the display (10_state R39). DESIGN CHOICE (D2). -/
def blankDisplay : Display := Vector.replicate 32 0

/-- Reset value of DIRTY (10_state R39). DESIGN CHOICE (D2). -/
def resetDirty : Bool := false

/-- Reset value of the key flags (10_state R41). DESIGN CHOICE (D2). -/
def resetKeys : Vector Bool 16 := Vector.replicate 16 false

/-- The RESET parameter: the values of V, I, SP, stack, DT, ST, display, dirty and keys after construction
(00_scope R6). -/
structure ResetParams where
  v : Vector Byte 16
  i : Word
  sp : Fin 17
  stack : Vector Word 16
  dt : Byte
  st : Byte
  disp : Display
  dirty : Bool
  key : Vector Bool 16
  deriving DecidableEq, Repr

/-- The default RESET: all zero and false (00_scope R6; 70_reset_and_hazards R210). DESIGN CHOICE (D2). -/
def defaultReset : ResetParams where
  v := resetV
  i := resetI
  sp := resetSp
  stack := resetStack
  dt := resetTimer
  st := resetTimer
  disp := blankDisplay
  dirty := resetDirty
  key := resetKeys

end Sys2Proof.Machine
end

