-- ==== Sys2Proof/Machine/State.lean ====
section
/-! DEFINITION. The state of the machine, its faults and refusals, and the state after reset
(spec 10_state R20 to R46; 60_exceptions R190, R191; 70_reset_and_hazards R210). -/

namespace Sys2Proof.Machine

/-- The fatal conditions, with the info the spec records (60_exceptions R191). Safe: the machine stops, as the spec
says it does ("terminates the run immediately", R190). -/
inductive Fault where
  /-- Code 1, raised by every step at fetch when pc0 + 1 > 0xFFF; info pc0 (R192). Safe. -/
  | fetchOutOfBounds (pc0 : Word)
  /-- Code 2, raised by every step at decode when the word matches no row of the opcode map; info the word (R193).
  Safe. -/
  | illegalInstruction (w : Word)
  /-- Code 3, raised by CALL when SP = 16; info pc0 (R194). Safe. -/
  | stackOverflow (pc0 : Word)
  /-- Code 4, raised by RET when SP = 0; info pc0 (R198). Safe. -/
  | stackUnderflow (pc0 : Word)
  /-- Code 5, raised by DRW, LD B, LD [I] and LD Vx,[I] at the first address above 0xFFF; info that address (R199).
  Safe. -/
  | dataAccessOutOfBounds (addr : Nat)
  /-- Code 6, raised by the host operation SetKey when the index is 16 or more; info the index (R195). Safe. -/
  | keyIndexOutOfRange (index : Nat)
  deriving DecidableEq, Repr

/-- Why the machine gives no meaning to what it is asked for. -/
inductive Refusal where
  /-- An instruction without a meaning in this model, by its mnemonic. Raised by no arm: all 34 are modelled. Safe. -/
  | notModelled (mnemonic : String)
  /-- An operation on a dead machine: FATAL is not none, and no step and no host operation is defined
  (10_state R42, 40_step_cycle R97, 60_exceptions R197). Holds the cause the machine died of. Safe. -/
  | machineDead (cause : Fault)
  deriving DecidableEq, Repr

/-- Everything the spec gives the machine (10_state section 1), and the model's own `draws`. -/
structure State where
  /-- V0 to VF (R22). -/
  v : Vector Byte 16
  /-- The index register I (R27). -/
  i : Word
  /-- The program counter PC (R29). -/
  pc : Word
  /-- SP, the number of stack entries in use, 0 to 16 (R32). -/
  sp : Fin 17
  /-- STACK[0..15] (R32). -/
  stack : Vector Word 16
  /-- The delay timer DT (R34). -/
  dt : Byte
  /-- The sound timer ST (R34). -/
  st : Byte
  /-- DISP (R37). -/
  disp : Display
  /-- DIRTY (R38). -/
  dirty : Bool
  /-- KEY[0..15] (R40). -/
  key : Vector Bool 16
  /-- MEM, with the FONT parameter it was constructed with (R20, R26). -/
  mem : Memory
  /-- FATAL: none, or the cause the machine died of (R42). -/
  fatal : Option Fault
  /-- The model's own: how many random bytes have been drawn (43_alu R134; log entry 5). -/
  draws : Nat
  deriving DecidableEq, Repr

/-- Construct: a machine in its reset state, for any RESET and FONT parameters (00_scope R6; 50_host_interface R171;
70_reset_and_hazards R210). -/
def State.construct (reset : ResetParams) (font : Font) : State where
  v := reset.v
  i := reset.i
  pc := resetPc
  sp := reset.sp
  stack := reset.stack
  dt := reset.dt
  st := reset.st
  disp := reset.disp
  dirty := reset.dirty
  key := reset.key
  mem := Memory.initial font
  fatal := none
  draws := 0

/-- The machine right after reset, constructed with the default RESET and FONT (00_scope R6; 10_state R26). -/
def State.reset : State := State.construct defaultReset defaultFont

end Sys2Proof.Machine
end

