-- ==== Sys2Proof/Machine/Ops.lean ====
section
/-! DEFINITION. The named operations over registers, the stack, the display, memory, the timers and the fatal status
that the instruction meanings are made of. -/

namespace Sys2Proof.Machine

/-- What a step, a body or a host operation without a result answers. -/
abbrev Result := Host.Outcome State Fault Refusal

/-- V[x] (00_scope R8). -/
def State.getV (s : State) (x : Reg) : Byte := s.v[x.val]

/-- V[x] <- b. -/
def State.setV (s : State) (x : Reg) (b : Byte) : State := { s with v := s.v.set x.val b }

/-- The flag register VF = V[15] (10_state R25). -/
abbrev vf : Reg := 15

/-- A result and then the flag: with x = 0xF the flag is what VF holds in the end (43_alu R131, D7). -/
def State.setResultAndFlag (s : State) (x : Reg) (result flag : Byte) : State := (s.setV x result).setV vf flag

/-- V0 to Vx from ascending addresses, the others unchanged (44_index_memory R146). -/
def State.loadV (s : State) (x : Reg) (bytes : Nat → Byte) : State :=
  { s with v := Vector.ofFn (fun k : Fin 16 => if k ≤ x then bytes k.val else s.v[k.val]) }

/-- V0 to Vx, in ascending order (44_index_memory R145). -/
def State.firstRegs (s : State) (x : Reg) : List Byte := s.v.toList.take (x.val + 1)

def State.setI (s : State) (a : Word) : State := { s with i := a }

def State.setDT (s : State) (b : Byte) : State := { s with dt := b }

def State.setST (s : State) (b : Byte) : State := { s with st := b }

/-- PC <- target, not checked here: a bad target is fatal at the next fetch (41_flow R100). -/
def State.jump (s : State) (target : Word) : State := { s with pc := target }

/-- The default advance, PC <- pc0 + 2 (40_step_cycle R93). -/
def State.advance (s : State) : State := s.jump (s.pc + insnBytes)

/-- A conditional skip: PC <- pc0 + 4 when the condition holds, else pc0 + 2 (42_skip R114). -/
def State.skipIf (s : State) (c : Bool) : State :=
  if c then s.jump (s.pc + insnBytes + insnBytes) else s.advance

/-- Push: STACK[SP] <- a, SP <- SP + 1; `none` when SP = 16 (10_state R32). -/
def State.push (s : State) (a : Word) : Option State :=
  if h : s.sp.val < 16 then
    some { s with stack := s.stack.set s.sp.val a, sp := ⟨s.sp.val + 1, Nat.succ_lt_succ h⟩ }
  else none

/-- Pop: SP <- SP - 1, then read STACK[SP], whose old value stays there; `none` when SP = 0 (10_state R32). -/
def State.pop (s : State) : Option (Word × State) :=
  if h : 0 < s.sp.val then
    some (s.stack[s.sp.val - 1]'(by have := s.sp.isLt; omega),
      { s with sp := ⟨s.sp.val - 1, Nat.lt_of_le_of_lt (Nat.sub_le _ _) s.sp.isLt⟩ })
  else none

/-- The least address above 0xFFF among `base`, …, `base + count - 1`, the one the spec reports (60_exceptions R202);
`none` when all of them exist. The whole range is tested before anything is written (20_memory R56). -/
def firstOutOfRange (base count : Nat) : Option Nat :=
  if count = 0 ∨ base + count ≤ memSize then none else some (max base memSize)

/-- The byte MEM[a]. -/
def State.readByte (s : State) (a : Nat) : Byte := s.mem.read a

/-- Bytes stored at ascending addresses. -/
def State.storeBytes (s : State) (a : Nat) (bytes : List Byte) : State := { s with mem := s.mem.writeBytes a bytes }

/-- Cell k of a display: bit k mod 64 of row k div 64 (10_state R37). -/
def cell (d : Display) (k : CellIndex) : Bool := (d[k.val / 64]'(by omega)).getLsbD (k.val % 64)

/-- The display with cell k XORed with 1. -/
def flipCell (d : Display) (k : CellIndex) : Display :=
  d.set (k.val / 64) (d[k.val / 64]'(by omega) ^^^ BitVec.twoPow 64 (k.val % 64)) (by omega)

/-- One set sprite bit: a cell that is 1 raises the collision; the cell is XORed with 1 (45_display R151). -/
def xorCell (acc : Display × Bool) (k : CellIndex) : Display × Bool :=
  (flipCell acc.1 k, acc.2 || cell acc.1 k)

/-- The set sprite bits in turn, from a collision flag of 0 (45_display R151). -/
def xorCells (d : Display) (ks : List CellIndex) : Display × Bool := ks.foldl xorCell (d, false)

/-- A new picture: DISP and DIRTY (10_state R38). -/
def State.setPicture (s : State) (d : Display) : State := { s with disp := d, dirty := true }

/-- KEY[k] (46_keys_timers R166). -/
def State.keyDown (s : State) (k : Key) : Bool := s.key[k.val]

/-- The next random byte, `rnd` (43_alu R134): a free value. -/
def State.rndByte (s : State) : Byte := Config.randomByte s.draws

/-- The random byte has been drawn. -/
def State.drawn (s : State) : State := { s with draws := s.draws + 1 }

/-- One timer's tick: minus one while greater than zero (40_step_cycle R95). -/
def tickTimer (b : Byte) : Byte := if b = 0 then 0 else b - 1

/-- The tick of both timers at the end of a step (40_step_cycle R95). -/
def State.tick (s : State) : State := { s with dt := tickTimer s.dt, st := tickTimer s.st }

/-- RAISING A FATAL, the machine's one exception (60_exceptions R190, R196): the operation ends at once, with a cause
and its info. There is no handler, no saved PC and no return from it (R197). -/
def raiseFatal (cause : Fault) : Result := .fault cause

/-- FATAL ENTRY: FATAL <- (cause, info), and nothing else changes (60_exceptions R196, D13). -/
def State.enterFatal (s : State) (cause : Fault) : State := { s with fatal := some cause }

/-- The code of a cause (60_exceptions R191). -/
def faultCode : Fault → Nat
  | .fetchOutOfBounds _ => 1
  | .illegalInstruction _ => 2
  | .stackOverflow _ => 3
  | .stackUnderflow _ => 4
  | .dataAccessOutOfBounds _ => 5
  | .keyIndexOutOfRange _ => 6

/-- An operation on a machine that is alive; on a dead machine no operation is defined (60_exceptions R197). -/
def whenAlive {α : Type} (s : State) (op : Host.Outcome α Fault Refusal) : Host.Outcome α Fault Refusal :=
  match s.fatal with
  | some cause => .refused (.machineDead cause)
  | none => op

/-- A body that accesses `count` bytes of memory from I: fatal at the first address above 0xFFF, else it completes
(20_memory R55; 44_index_memory R143). -/
def withDataRange (s : State) (count : Nat) (done : State) : Result :=
  match firstOutOfRange s.i.toNat count with
  | some a => raiseFatal (.dataAccessOutOfBounds a)
  | none => .next done

/-- A change of the state that follows a body which completed. -/
def andThen (r : Result) (f : State → State) : Result :=
  match r with
  | .next s => .next (f s)
  | .fault cause => .fault cause
  | .refused why => .refused why

/-- Fetch: the two bytes at PC, big-endian; fatal when pc0 + 1 > 0xFFF (40_step_cycle R91; 20_memory R51, R54). -/
def fetchWord (s : State) : Except Fault Word :=
  if s.pc.toNat + 1 > 0xFFF then .error (.fetchOutOfBounds s.pc)
  else .ok (wordOfBytes (s.readByte s.pc.toNat) (s.readByte (s.pc.toNat + 1)))

/-- Fetch and decode; an illegal word is fatal (40_step_cycle R91, R92). -/
def fetchInstr (s : State) : Except Fault Instr :=
  match fetchWord s with
  | .error cause => .error cause
  | .ok w =>
    match decode w with
    | some i => .ok i
    | none => .error (.illegalInstruction w)

/-- Two bytes placed where the next step fetches them. -/
def State.placeAtPc (s : State) (hi lo : Byte) : State := s.storeBytes s.pc.toNat [hi, lo]

end Sys2Proof.Machine
end

