-- ==== Sys2Proof/Machine/Operands.lean ====
section
/-! DEFINITION. Operand forms: addresses, keys, digits and sprite cells (spec 00_scope R9; 44_index_memory R142 to
R144; 45_display R151; 46_keys_timers R163, R166). -/

namespace Sys2Proof.Machine

/-- The 12-bit field `nnn` as an address, without sign extension (30_encoding R72). -/
def absolute (nnn : Addr) : Word := BitVec.ofNat 16 nnn.toNat

/-- `nnn + V0`, not reduced to 12 bits (41_flow R104, D24). -/
def indexed (nnn : Addr) (b : Byte) : Word := BitVec.ofNat 16 (nnn.toNat + b.toNat)

/-- The low nibble of a register, which selects a key or a glyph (46_keys_timers R166; 44_index_memory R142). -/
def lowNibble (b : Byte) : Fin 16 := (b.extractLsb' 0 4).toFin

/-- The address of a digit's glyph, 0x050 + 5 * digit (44_index_memory R142). -/
def glyphAddress (b : Byte) : Word := BitVec.ofNat 16 (fontBase + glyphSize * (lowNibble b).val)

/-- The three decimal digits: hundreds, tens, ones (44_index_memory R144). -/
def bcdDigits (b : Byte) : List Byte :=
  [BitVec.ofNat 8 (b.toNat / 100), BitVec.ofNat 8 (b.toNat / 10 % 10), BitVec.ofNat 8 (b.toNat % 10)]

/-- The least pressed key (46_keys_timers R163). -/
def leastKey (s : State) : Option Key := (List.finRange 16).find? s.keyDown

/-- The least pressed key as the byte stored in Vx. -/
def keyByte (k : Key) : Byte := BitVec.ofNat 8 k.val

/-- The index of the cell under bit k of row r: one linear modulo over the whole buffer, the coordinates not reduced
first (45_display R151, R152). -/
def cellAt (cx cy : Byte) (r k : Nat) : CellIndex := Fin.ofNat 2048 ((cx.toNat + k) + (cy.toNat + r) * 64)

/-- Bit k of a sprite row, k = 0 the most significant (45_display R151). -/
def spriteBit (b : Byte) (k : Nat) : Bool := (b &&& (0x80#8 >>> k)) != 0

/-- The cells under the set bits of one sprite row, left to right. -/
def rowCells (cx cy : Byte) (r : Nat) (b : Byte) : List CellIndex :=
  ((List.range 8).filter (spriteBit b)).map (cellAt cx cy r)

/-- The cells under the set bits of a sprite of n rows, in the order in which they are drawn (45_display R151). -/
def spriteCells (cx cy : Byte) (n : Nat) (row : Nat → Byte) : List CellIndex :=
  (List.range n).flatMap (fun r => rowCells cx cy r (row r))

end Sys2Proof.Machine
end

