-- ==== Sys2Proof/Machine/Flags.lean ====
section
/-! DEFINITION. Every value an instruction writes to VF as a flag (spec 10_state R25; 43_alu R132). -/

namespace Sys2Proof.Machine

/-- A flag of 0 or 1. -/
def flagBit (c : Bool) : Byte := if c then 1 else 0

/-- Carry of an 8-bit addition (43_alu R126). -/
def carryFlag (a b : Byte) : Byte := flagBit (decide (a.toNat + b.toNat > 255))

/-- NOT borrow of a - b: 1 when a >= b (43_alu R127, R129). -/
def noBorrowFlag (a b : Byte) : Byte := flagBit (decide (a.toNat ≥ b.toNat))

/-- The bit a right shift loses: 0 or 1 (43_alu R128). -/
def shiftRightFlag (a : Byte) : Byte := BitVec.ofNat 8 (a.toNat % 2)

/-- The bit a left shift loses, as it stands: 0x00 or 0x80, not normalised (43_alu R130). -/
def shiftLeftFlag (a : Byte) : Byte := a &&& 0x80#8

/-- I + Vx leaves the 12-bit range (44_index_memory R141). -/
def indexOverflowFlag (i : Word) (a : Byte) : Byte := flagBit (decide (i.toNat + a.toNat > 0xFFF))

/-- A set cell was cleared by a draw (45_display R151). -/
def collisionFlag (hit : Bool) : Byte := flagBit hit

end Sys2Proof.Machine
end

