-- ==== Sys2Proof/Machine/Alu.lean ====
section
/-! DEFINITION. Register, arithmetic, logic, shift and random instructions (spec 43_alu). Operands are read first,
then the result is written, then the flag (R131). -/

namespace Sys2Proof.Machine

/-- R120. -/
def execLdImm (x : Reg) (nn : Byte) (s : State) : Result := .next (s.setV x nn).advance

/-- R121. VF is not written as a flag. -/
def execAddImm (x : Reg) (nn : Byte) (s : State) : Result := .next (s.setV x (s.getV x + nn)).advance

/-- R122. -/
def execLdReg (x y : Reg) (s : State) : Result := .next (s.setV x (s.getV y)).advance

/-- R123. VF is left unchanged. -/
def execOrReg (x y : Reg) (s : State) : Result := .next (s.setV x (s.getV x ||| s.getV y)).advance

/-- R124. VF is left unchanged. -/
def execAndReg (x y : Reg) (s : State) : Result := .next (s.setV x (s.getV x &&& s.getV y)).advance

/-- R125. VF is left unchanged. -/
def execXorReg (x y : Reg) (s : State) : Result := .next (s.setV x (s.getV x ^^^ s.getV y)).advance

/-- R126. -/
def execAddReg (x y : Reg) (s : State) : Result :=
  .next (s.setResultAndFlag x (s.getV x + s.getV y) (carryFlag (s.getV x) (s.getV y))).advance

/-- R127. -/
def execSubReg (x y : Reg) (s : State) : Result :=
  .next (s.setResultAndFlag x (s.getV x - s.getV y) (noBorrowFlag (s.getV x) (s.getV y))).advance

/-- R128. Operand and destination are both Vx (D8). -/
def execShr (x : Reg) (s : State) : Result :=
  .next (s.setResultAndFlag x (s.getV x >>> 1) (shiftRightFlag (s.getV x))).advance

/-- R129. -/
def execSubnReg (x y : Reg) (s : State) : Result :=
  .next (s.setResultAndFlag x (s.getV y - s.getV x) (noBorrowFlag (s.getV y) (s.getV x))).advance

/-- R130. Operand and destination are both Vx (D8); the flag is the raw masked bit. -/
def execShl (x : Reg) (s : State) : Result :=
  .next (s.setResultAndFlag x (s.getV x <<< 1) (shiftLeftFlag (s.getV x))).advance

/-- R133. The random byte is a free value (R134). -/
def execRnd (x : Reg) (nn : Byte) (s : State) : Result := .next (s.setV x (s.rndByte &&& nn)).drawn.advance

end Sys2Proof.Machine
end

