-- ==== Sys2Proof/Machine/DisplayInstr.lean ====
section
/-! DEFINITION. Display instructions: CLS, DRW (spec 45_display). -/

namespace Sys2Proof.Machine

/-- R150. -/
def execCls (s : State) : Result := .next (s.setPicture (Vector.replicate 32 0)).advance

/-- The picture after a draw, and whether there was a collision (R151). -/
def pictureAfterDraw (s : State) (x y : Reg) (n : Nibble) : Display × Bool :=
  xorCells s.disp (spriteCells (s.getV x) (s.getV y) n.toNat (fun r => s.readByte (s.i.toNat + r)))

/-- R151. The coordinates are read before VF is written; with n = 0 no memory is read. -/
def execDrw (x y : Reg) (n : Nibble) (s : State) : Result :=
  withDataRange s n.toNat ((s.setPicture (pictureAfterDraw s x y n).1).setV vf (collisionFlag (pictureAfterDraw s x y n).2)).advance

end Sys2Proof.Machine
end

