-- ==== Sys2Proof/Machine/Flow.lean ====
section
/-! DEFINITION. Control transfer: RET, JP, CALL, JP V0 (spec 41_flow). -/

namespace Sys2Proof.Machine

/-- R101. The stacked value is the address of the CALL, so execution resumes two bytes after it (90_conflicts C3). -/
def execRet (s : State) : Result :=
  match s.pop with
  | none => raiseFatal (.stackUnderflow s.pc)
  | some (a, s') => .next (s'.jump (a + insnBytes))

/-- R102. -/
def execJp (nnn : Addr) (s : State) : Result := .next (s.jump (absolute nnn))

/-- R103. The pushed value is the address of the CALL itself. -/
def execCall (nnn : Addr) (s : State) : Result :=
  match s.push s.pc with
  | none => raiseFatal (.stackOverflow s.pc)
  | some s' => .next (s'.jump (absolute nnn))

/-- R104. -/
def execJpV0 (nnn : Addr) (s : State) : Result := .next (s.jump (indexed nnn (s.getV 0)))

end Sys2Proof.Machine
end

