-- ==== Sys2Proof/Machine/IndexMemory.lean ====
section
/-! DEFINITION. Index-register and memory instructions (spec 44_index_memory). No instruction here changes I as a side
effect of an access (R143). -/

namespace Sys2Proof.Machine

/-- R140. -/
def execLdI (nnn : Addr) (s : State) : Result := .next (s.setI (absolute nnn)).advance

/-- R141: I with 12-bit wrap, VF the overflow, and, as the recorded quirk, ST <- the old Vx. -/
def execAddI (x : Reg) (s : State) : Result :=
  .next (((s.setST (s.getV x)).setI (BitVec.ofNat 16 ((s.i.toNat + (s.getV x).toNat) % 4096))).setV vf
    (indexOverflowFlag s.i (s.getV x))).advance

/-- R142. -/
def execLdF (x : Reg) (s : State) : Result := .next (s.setI (glyphAddress (s.getV x))).advance

/-- R144. -/
def execLdB (x : Reg) (s : State) : Result :=
  withDataRange s 3 (s.storeBytes s.i.toNat (bcdDigits (s.getV x))).advance

/-- R145. -/
def execStoreRegs (x : Reg) (s : State) : Result :=
  withDataRange s (x.val + 1) (s.storeBytes s.i.toNat (s.firstRegs x)).advance

/-- R146. -/
def execLoadRegs (x : Reg) (s : State) : Result :=
  withDataRange s (x.val + 1) (s.loadV x (fun k => s.readByte (s.i.toNat + k))).advance

end Sys2Proof.Machine
end

