-- ==== Sys2Proof/Machine/KeysTimers.lean ====
section
/-! DEFINITION. Key and timer instructions (spec 46_keys_timers). The tick that follows each body is the step's
(40_step_cycle R95). -/

namespace Sys2Proof.Machine

/-- R160. -/
def execSkp (x : Reg) (s : State) : Result := .next (s.skipIf (s.keyDown (lowNibble (s.getV x))))

/-- R161. -/
def execSknp (x : Reg) (s : State) : Result := .next (s.skipIf (!s.keyDown (lowNibble (s.getV x))))

/-- R162. -/
def execLdVxDT (x : Reg) (s : State) : Result := .next (s.setV x s.dt).advance

/-- R163. With no key pressed PC stays, and the same instruction is fetched again: a complete step. -/
def execLdVxK (x : Reg) (s : State) : Result :=
  match leastKey s with
  | some k => .next (s.setV x (keyByte k)).advance
  | none => .next s

/-- R164. -/
def execLdDTVx (x : Reg) (s : State) : Result := .next (s.setDT (s.getV x)).advance

/-- R165. -/
def execLdSTVx (x : Reg) (s : State) : Result := .next (s.setST (s.getV x)).advance

end Sys2Proof.Machine
end

