-- ==== Sys2Proof/Machine/Cycle.lean ====
section
/-! DEFINITION. The step cycle: fetch, decode, body, tick (spec 40_step_cycle R90; order of checks 60_exceptions
R202). -/

namespace Sys2Proof.Machine

/-- One step of a machine that is alive (40_step_cycle R90). A fatal ends the step at once: no tick (R96). -/
def liveCycle (s : State) : Result :=
  match fetchInstr s with
  | .error cause => raiseFatal cause
  | .ok i => andThen (exec i s) State.tick

/-- One step; a dead machine has none (40_step_cycle R97). -/
def cycle (s : State) : Result := whenAlive s (liveCycle s)

/-- The machine after an operation answered: a fatal leaves the state of `State.enterFatal`, and a refused operation
is not accepted (60_exceptions R196, R197). -/
def afterOutcome (s : State) : Result → State
  | .next t => t
  | .fault cause => s.enterFatal cause
  | .refused _ => s

end Sys2Proof.Machine
end

