-- ==== Sys2Proof/Machine/Step.lean ====
section
/-! DEFINITION. One step of the machine, and an instruction placed where the next step fetches it. -/

namespace Sys2Proof.Machine

/-- One step (spec 40_step_cycle R90). -/
def step (s : State) : Host.Outcome State Fault Refusal := cycle s

/-- The state with an instruction, its bits numbered as spec/opcode_table.json numbers them, stored at PC. -/
def State.withFetchWord (s : State) (nbits w : Nat) : State :=
  s.placeAtPc (tableWordBytes nbits w).1 (tableWordBytes nbits w).2

end Sys2Proof.Machine
end

