-- ==== Sys2Proof/Machine/HostOps.lean ====
section
/-! DEFINITION. The host's operations between steps (spec 50_host_interface): Load, SetKey, ConsumeFrame, the query
sound_active, and Step as the host sees it. Construct is `State.construct`. -/

namespace Sys2Proof.Machine

/-- What Load returns (R172, R173). LoadError is no fatal: the machine stays usable (60_exceptions R200). -/
inductive LoadStatus where
  | ok
  | loadError
  deriving DecidableEq, Repr

/-- Load (R172, R173): all or nothing, at 0x200, for an image of at most 3583 bytes. -/
def loadImage (image : List Byte) (s : State) : Host.Outcome (LoadStatus × State) Fault Refusal :=
  whenAlive s (.next (if image.length ≤ maxImage then (.ok, s.storeBytes progBase image) else (.loadError, s)))

/-- SetKey (R175, R176): one flag; an index of 16 or more is fatal. -/
def setKey (index : Nat) (pressed : Bool) (s : State) : Result :=
  whenAlive s
    (if h : index < 16 then .next { s with key := s.key.set index pressed h }
     else raiseFatal (.keyIndexOutOfRange index))

/-- ConsumeFrame (R177): the buffer, if it is marked dirty, and DIRTY cleared. -/
def consumeFrame (s : State) : Host.Outcome (Option Display × State) Fault Refusal :=
  whenAlive s (.next (if s.dirty then (some s.disp, { s with dirty := false }) else (none, s)))

/-- sound_active (R179): ST is not 0. -/
def soundActive (s : State) : Host.Outcome Bool Fault Refusal := whenAlive s (.next (s.st != 0))

/-- Step as the host sees it (R174): the machine after one step, dead if the step raised a fatal. -/
def stepHost (s : State) : State := afterOutcome s (step s)

end Sys2Proof.Machine
end

