-- ==== Sys2Proof/Safety.lean ====
section
/-! DEFINITION. What claims are stated in: the invariant of reachable states, a safe step, the instruction the next step
runs, which parts of the state a change leaves alone, and small tables of the rules. -/

namespace Sys2Proof.Machine

/-- What every reachable state has: memory in canonical form, I at most 0xFFF (10_state R31), PC at most 0x10FE
(R29), and every stack entry at most 0xFFE (41_flow R103). SP at most 16 (R32) is in its type. -/
structure Inv (s : State) : Prop where
  memWf : s.mem.wf = true
  indexBound : s.i.toNat ≤ 0xFFF
  pcBound : s.pc.toNat ≤ 0x10FE
  stackBound : ∀ k : Fin 16, (s.stack[k.val]).toNat ≤ 0xFFE

/-- A RESET parameter that starts the machine inside the bounds of `Inv` (10_state R31; 41_flow R103); the default one
does. -/
def ResetParams.InBounds (reset : ResetParams) : Prop :=
  reset.i.toNat ≤ 0xFFF ∧ ∀ k : Fin 16, (reset.stack[k.val]).toNat ≤ 0xFFE

/-- A safe step: it completes. -/
def SafeStep (s : State) : Prop := ∃ t, step s = .next t

/-- The word the next step fetches, when its address is in range (20_memory R51). -/
def wordAtPc (s : State) : Word := wordOfBytes (s.readByte s.pc.toNat) (s.readByte (s.pc.toNat + 1))

/-- The machine is alive, and the next step fetches and runs `i`. -/
def NextInstr (s : State) (i : Instr) : Prop :=
  s.fatal = none ∧ s.pc.toNat + 1 ≤ 0xFFF ∧ decode (wordAtPc s) = some i

/-- `n` steps lead from `s` to `t`, and none of them runs an instruction that `p` holds of. -/
def RunsWithout (p : Instr → Bool) : Nat → State → State → Prop
  | 0, s, t => s = t
  | n + 1, s, t => ∃ i u, NextInstr s i ∧ p i = false ∧ step s = .next u ∧ RunsWithout p n u t

/-- Every V register but those written is the same. -/
def KeepsRegsBut (written : List Reg) (s t : State) : Prop := ∀ r, r ∉ written → t.getV r = s.getV r

/-- Stack and stack pointer are the same. -/
def KeepsStack (s t : State) : Prop := t.sp = s.sp ∧ t.stack = s.stack

/-- Both timers are the same. -/
def KeepsTimers (s t : State) : Prop := t.dt = s.dt ∧ t.st = s.st

/-- The display buffer and DIRTY are the same. -/
def KeepsPicture (s t : State) : Prop := t.disp = s.disp ∧ t.dirty = s.dirty

/-- Every byte of memory reads the same, and the FONT parameter is the same. -/
def KeepsMemory (s t : State) : Prop := (∀ a, t.readByte a = s.readByte a) ∧ t.mem.font = s.mem.font

/-- The key flags and FATAL are the same. -/
def KeepsKeysAndFatal (s t : State) : Prop := t.key = s.key ∧ t.fatal = s.fatal

/-- Only the V registers written, PC and nothing else of the spec's state may differ; no random byte was drawn. -/
def OnlyRegsAndPc (written : List Reg) (s t : State) : Prop :=
  KeepsRegsBut written s t ∧ t.i = s.i ∧ KeepsStack s t ∧ KeepsTimers s t ∧ KeepsPicture s t ∧ KeepsMemory s t ∧
    KeepsKeysAndFatal s t ∧ t.draws = s.draws

/-- The default advance, PC <- pc0 + 2, from a PC that fetches (40_step_cycle R93). -/
def AdvancesByTwo (s t : State) : Prop := s.pc.toNat ≤ 0xFFE → t.pc.toNat = s.pc.toNat + 2

/-- The operands of an instruction are the fields of its word (30_encoding R71, R72). -/
def operandsAreFields (w : Word) : Instr → Prop
  | .cls | .ret => True
  | .jp a | .call a | .ldI a | .jpV0 a => a = fieldNnn w
  | .seImm x b | .sneImm x b | .ldImm x b | .addImm x b | .rnd x b => x = fieldX w ∧ b = fieldNn w
  | .seReg x y | .sneReg x y | .ldReg x y | .orReg x y | .andReg x y | .xorReg x y | .addReg x y | .subReg x y
  | .subnReg x y => x = fieldX w ∧ y = fieldY w
  | .drw x y n => x = fieldX w ∧ y = fieldY w ∧ n = fieldN w
  | .shr x | .shl x | .skp x | .sknp x | .ldVxDT x | .ldVxK x | .ldDTVx x | .ldSTVx x | .addI x | .ldF x | .ldB x
  | .storeRegs x | .loadRegs x => x = fieldX w

/-- The illegal words, family by family, as the table of 30_encoding R84 lists them. -/
def illegalByTable (w : Word) : Prop :=
  ((fieldOp w).toNat = 0x0 ∧ w ≠ 0x00E0#16 ∧ w ≠ 0x00EE#16) ∨
  ((fieldOp w).toNat = 0x5 ∧ fieldN w ≠ 0) ∨
  ((fieldOp w).toNat = 0x8 ∧ (fieldN w).toNat ∈ [0x8, 0x9, 0xA, 0xB, 0xC, 0xD, 0xF]) ∨
  ((fieldOp w).toNat = 0x9 ∧ fieldN w ≠ 0) ∨
  ((fieldOp w).toNat = 0xE ∧ (fieldNn w).toNat ∉ [0x9E, 0xA1]) ∨
  ((fieldOp w).toNat = 0xF ∧ (fieldNn w).toNat ∉ [0x07, 0x0A, 0x15, 0x18, 0x1E, 0x29, 0x33, 0x55, 0x65])

/-- The 23 instructions whose next PC is always pc0 + 2 (40_step_cycle R93). -/
def alwaysAdvances : Instr → Bool
  | .ret | .jp _ | .call _ | .jpV0 _ => false
  | .seImm _ _ | .sneImm _ _ | .seReg _ _ | .sneReg _ _ | .skp _ | .sknp _ => false
  | .ldVxK _ => false
  | .cls | .ldImm _ _ | .addImm _ _ | .ldReg _ _ | .orReg _ _ | .andReg _ _ | .xorReg _ _ | .addReg _ _ => true
  | .subReg _ _ | .shr _ | .subnReg _ _ | .shl _ | .ldI _ | .rnd _ _ | .drw _ _ _ | .ldVxDT _ | .ldDTVx _ => true
  | .ldSTVx _ | .addI _ | .ldF _ | .ldB _ | .storeRegs _ | .loadRegs _ => true

/-- Whether an instruction may write a V register: its destination, and VF for the flag writers (10_state R25). -/
def writesReg (r : Reg) : Instr → Bool
  | .ldImm x _ | .addImm x _ | .ldReg x _ | .orReg x _ | .andReg x _ | .xorReg x _ | .rnd x _ | .ldVxDT x
  | .ldVxK x => r = x
  | .addReg x _ | .subReg x _ | .shr x | .subnReg x _ | .shl x => r = x || r = vf
  | .drw _ _ _ | .addI _ => r = vf
  | .loadRegs x => r ≤ x
  | .cls | .ret | .jp _ | .call _ | .seImm _ _ | .sneImm _ _ | .seReg _ _ | .sneReg _ _ | .ldI _ | .jpV0 _ => false
  | .skp _ | .sknp _ | .ldDTVx _ | .ldSTVx _ | .ldF _ | .ldB _ | .storeRegs _ => false

/-- How many bytes of memory an instruction's body accesses from I on (20_memory R57). -/
def dataCount : Instr → Nat
  | .drw _ _ n => n.toNat
  | .ldB _ => 3
  | .storeRegs x | .loadRegs x => x.val + 1
  | .cls | .ret | .jp _ | .call _ | .seImm _ _ | .sneImm _ _ | .seReg _ _ | .ldImm _ _ | .addImm _ _ => 0
  | .ldReg _ _ | .orReg _ _ | .andReg _ _ | .xorReg _ _ | .addReg _ _ | .subReg _ _ | .shr _ | .subnReg _ _ => 0
  | .shl _ | .sneReg _ _ | .ldI _ | .jpV0 _ | .rnd _ _ | .skp _ | .sknp _ | .ldVxDT _ | .ldVxK _ | .ldDTVx _ => 0
  | .ldSTVx _ | .addI _ | .ldF _ => 0

/-- The instructions that write I (10_state R27). -/
def writesIndex : Instr → Bool
  | .ldI _ | .addI _ | .ldF _ => true
  | .cls | .ret | .jp _ | .call _ | .seImm _ _ | .sneImm _ _ | .seReg _ _ | .ldImm _ _ | .addImm _ _ => false
  | .ldReg _ _ | .orReg _ _ | .andReg _ _ | .xorReg _ _ | .addReg _ _ | .subReg _ _ | .shr _ | .subnReg _ _ => false
  | .shl _ | .sneReg _ _ | .jpV0 _ | .rnd _ _ | .drw _ _ _ | .skp _ | .sknp _ | .ldVxDT _ | .ldVxK _ => false
  | .ldDTVx _ | .ldSTVx _ | .ldB _ | .storeRegs _ | .loadRegs _ => false

/-- The instructions that store to memory (10_state section 1). -/
def storesToMemory : Instr → Bool
  | .ldB _ | .storeRegs _ => true
  | .cls | .ret | .jp _ | .call _ | .seImm _ _ | .sneImm _ _ | .seReg _ _ | .ldImm _ _ | .addImm _ _ => false
  | .ldReg _ _ | .orReg _ _ | .andReg _ _ | .xorReg _ _ | .addReg _ _ | .subReg _ _ | .shr _ | .subnReg _ _ => false
  | .shl _ | .sneReg _ _ | .ldI _ | .jpV0 _ | .rnd _ _ | .drw _ _ _ | .skp _ | .sknp _ | .ldVxDT _ => false
  | .ldVxK _ | .ldDTVx _ | .ldSTVx _ | .addI _ | .ldF _ | .loadRegs _ => false

/-- The bytes an instruction stores, at I, I + 1, … (44_index_memory R144, R145). -/
def storedBytes (i : Instr) (s : State) : List Byte :=
  match i with
  | .ldB x => bcdDigits (s.getV x)
  | .storeRegs x => s.firstRegs x
  | _ => []

/-- The instructions that write the display (10_state R37). -/
def writesPicture : Instr → Bool
  | .cls | .drw _ _ _ => true
  | .ret | .jp _ | .call _ | .seImm _ _ | .sneImm _ _ | .seReg _ _ | .ldImm _ _ | .addImm _ _ | .ldReg _ _ => false
  | .orReg _ _ | .andReg _ _ | .xorReg _ _ | .addReg _ _ | .subReg _ _ | .shr _ | .subnReg _ _ | .shl _ => false
  | .sneReg _ _ | .ldI _ | .jpV0 _ | .rnd _ _ | .skp _ | .sknp _ | .ldVxDT _ | .ldVxK _ | .ldDTVx _ => false
  | .ldSTVx _ | .addI _ | .ldF _ | .ldB _ | .storeRegs _ | .loadRegs _ => false

/-- `Fx15`, which writes DT. -/
def writesDT (i : Instr) : Bool := match i with | .ldDTVx _ => true | _ => false

/-- `Fx18` and `Fx1E`, which write ST (10_state R34). -/
def writesST (i : Instr) : Bool := match i with | .ldSTVx _ | .addI _ => true | _ => false

/-- `2nnn` and `00EE`, which touch the stack (10_state R32). -/
def usesStack (i : Instr) : Bool := match i with | .call _ | .ret => true | _ => false

/-- `Cxnn`, which draws a random byte (43_alu R134). -/
def drawsRandom (i : Instr) : Bool := match i with | .rnd _ _ => true | _ => false

/-- Set bit `k` (0 the most significant) of sprite row `r` covers cell `c`, by the formula of 45_display R151. -/
def covers (s : State) (x y : Reg) (n : Nibble) (c : CellIndex) : Prop :=
  ∃ r k : Nat, r < n.toNat ∧ k < 8 ∧ (s.readByte (s.i.toNat + r)).getLsbD (7 - k) = true ∧
    c.val = (((s.getV x).toNat + k) + ((s.getV y).toNat + r) * 64) % 2048

end Sys2Proof.Machine
end

