-- ==== Sys2Proof/Certificates/Slice0/Obligations.lean ====
section
/-! DEFINITION. The statements for the provers: what the numbered rules of spec/ say the machine does. Each docstring
names the rule; where a clause rests on a decision the spec marks as its own (D<n>) or on the model's choice, it says
so and names the log entry. Where a statement holds of every state, `s.pc + 2#16` is the spec's pc0 + 2 for every PC that
fetches; that it wraps at 16 bits for a PC no run reaches is the model's choice (log entry 16). -/

open Sys2Proof Sys2Proof.Machine

/-! ### Encoding -/

/-- 30_encoding R71: one field layout for every word and every instruction, and the same in terms of its two bytes. -/
def Obligations.WordHasOneFieldLayout : Prop :=
  (∀ w : Word,
    w.toNat = (fieldOp w).toNat * 4096 + (fieldX w).val * 256 + (fieldY w).val * 16 + (fieldN w).toNat ∧
    (fieldNn w).toNat = (fieldY w).val * 16 + (fieldN w).toNat ∧
    (fieldNnn w).toNat = (fieldX w).val * 256 + (fieldY w).val * 16 + (fieldN w).toNat) ∧
  (∀ hi lo : Byte,
    hi.toNat = (fieldOp (wordOfBytes hi lo)).toNat * 16 + (fieldX (wordOfBytes hi lo)).val ∧
    lo.toNat = (fieldY (wordOfBytes hi lo)).val * 16 + (fieldN (wordOfBytes hi lo)).toNat ∧
    lo = fieldNn (wordOfBytes hi lo)) ∧
  (∀ (w : Word) (i : Instr), decode w = some i → operandsAreFields w i)

/-- 30_encoding R74: a word decodes to the instruction whose row it satisfies, a word that satisfies no row is illegal,
and the rows' match sets are pairwise disjoint. -/
def Obligations.DecodeFollowsTheOpcodeMap : Prop :=
  (∀ (w : Word) (i : Instr), decode w = some i → i.row ∈ opcodeRows ∧ i.row.satisfiedBy w = true) ∧
  (∀ (w : Word) (r : OpcodeRow), r ∈ opcodeRows → r.satisfiedBy w = true → ∃ i, decode w = some i ∧ i.row = r) ∧
  (∀ w : Word, decode w = none ↔ wellFormedWord w = false) ∧
  (∀ (w : Word) (r r' : OpcodeRow), r ∈ opcodeRows → r' ∈ opcodeRows → r.satisfiedBy w = true →
    r'.satisfiedBy w = true → r = r') ∧
  opcodeRows.length = 34

/-- 30_encoding R86: encoding is the inverse of decoding, for every instruction with every operand. -/
def Obligations.EncodedInstructionDecodesToItself : Prop := ∀ i : Instr, decode (encode i) = some i

/-- 30_encoding R84 (strict decode, the spec's decision D4, log entry 3): the illegal words are exactly the table's. -/
def Obligations.IllegalWordsAreTheTablesWords : Prop := ∀ w : Word, decode w = none ↔ illegalByTable w

/-- 30_encoding R79 (the spec's decision D8, log entry 10): every y decodes to the same shift, of Vx only. -/
def Obligations.ShiftsIgnoreTheYField : Prop :=
  ∀ x y : Reg, decode (packXy 0x8006 x y) = some (.shr x) ∧ decode (packXy 0x800E x y) = some (.shl x)

/-- A few words written out from the tables of 30_encoding R75 to R82 (opcode numbers: the spec's decision D3, log
entry 2), at least one for each of the sixteen top nibbles, which are the families (R71). -/
def Obligations.SampleWordsDecode : Prop :=
  decode 0x00E0#16 = some .cls ∧ decode 0x00EE#16 = some .ret ∧ decode 0x1ABC#16 = some (.jp 0xABC#12) ∧
  decode 0x2F01#16 = some (.call 0xF01#12) ∧ decode 0x3A7F#16 = some (.seImm 0xA 0x7F#8) ∧
  decode 0x4B80#16 = some (.sneImm 0xB 0x80#8) ∧ decode 0x70FF#16 = some (.addImm 0 0xFF#8) ∧
  decode 0xA300#16 = some (.ldI 0x300#12) ∧
  decode 0x5120#16 = some (.seReg 1 2) ∧ decode 0x6A02#16 = some (.ldImm 0xA 2#8) ∧
  decode 0x8127#16 = some (.subnReg 1 2) ∧ decode 0x812E#16 = some (.shl 1) ∧ decode 0x9DE0#16 = some (.sneReg 0xD 0xE) ∧
  decode 0xB2F0#16 = some (.jpV0 0x2F0#12) ∧ decode 0xC43C#16 = some (.rnd 4 0x3C#8) ∧
  decode 0xD12F#16 = some (.drw 1 2 0xF#4) ∧ decode 0xE3A1#16 = some (.sknp 3) ∧ decode 0xF71E#16 = some (.addI 7) ∧
  decode 0xF365#16 = some (.loadRegs 3) ∧ decode 0x0000#16 = none ∧ decode 0x5121#16 = none

/-! ### The step -/

/-- 40_step_cycle R90: the bytes at PC, big-endian, decode to `i`; the step runs the body of `i` and then the tick. -/
def Obligations.StepRunsTheFetchedInstruction : Prop :=
  ∀ (s : State) (i : Instr), NextInstr s i →
    (wordAtPc s).toNat = (s.readByte s.pc.toNat).toNat * 256 + (s.readByte (s.pc.toNat + 1)).toNat ∧
    (∀ u, exec i s = .next u → step s = .next u.tick) ∧
    (∀ f, exec i s = .fault f → step s = .fault f)

/-- 40_step_cycle R91 and 20_memory R54: PC up to 0xFFE fetches two bytes, anything above is fatal and changes nothing
but FATAL. -/
def Obligations.FetchPastTheEndIsFatal : Prop :=
  ∀ s : State, s.fatal = none →
    (s.pc.toNat + 1 > 0xFFF →
      step s = .fault (.fetchOutOfBounds s.pc) ∧ stepHost s = { s with fatal := some (.fetchOutOfBounds s.pc) }) ∧
    (s.pc.toNat + 1 ≤ 0xFFF → ∃ w : Word, fetchWord s = .ok w ∧
      w.toNat = (s.readByte s.pc.toNat).toNat * 256 + (s.readByte (s.pc.toNat + 1)).toNat)

/-- 40_step_cycle R92: an illegal word is fatal, with no other effect. -/
def Obligations.IllegalWordIsFatal : Prop :=
  ∀ s : State, s.fatal = none → s.pc.toNat + 1 ≤ 0xFFF → decode (wordAtPc s) = none →
    step s = .fault (.illegalInstruction (wordAtPc s)) ∧
    stepHost s = { s with fatal := some (.illegalInstruction (wordAtPc s)) }

/-- 40_step_cycle R95: after the body each timer falls by one while above zero, nothing else changes, and so the rows
of the rule's table (natural subtraction: a timer at 0 stays 0). -/
def Obligations.TickFollowsTheBody : Prop :=
  ∀ (s u : State) (i : Instr), NextInstr s i → exec i s = .next u → ∃ t, step s = .next t ∧
    t = { u with dt := t.dt, st := t.st } ∧
    t.dt.toNat = u.dt.toNat - 1 ∧ t.st.toNat = u.st.toNat - 1 ∧
    (∀ x, i = .ldDTVx x → t.dt.toNat = (s.getV x).toNat - 1) ∧
    (∀ x, i = .ldSTVx x → t.st.toNat = (s.getV x).toNat - 1) ∧
    (∀ x, i = .addI x → t.st.toNat = (s.getV x).toNat - 1) ∧
    (∀ x, i = .ldVxDT x → t.getV x = s.dt) ∧
    (writesDT i = false → t.dt.toNat = s.dt.toNat - 1) ∧
    (writesST i = false → t.st.toNat = s.st.toNat - 1)

/-- 60_exceptions R196, R197 (the spec's decision D13; that a dead machine answers by a refusal is the model's choice,
log entry 7): a fatal step changes FATAL alone, and after it no operation is accepted. -/
def Obligations.FatalSetsOnlyFatalAndIsFinal : Prop :=
  (∀ (s : State) (f : Fault), step s = .fault f → s.fatal = none ∧ stepHost s = { s with fatal := some f }) ∧
  (∀ (s : State) (f : Fault), s.fatal = some f →
    stepHost s = s ∧ step s = .refused (.machineDead f) ∧
    (∀ image, loadImage image s = .refused (.machineDead f)) ∧
    (∀ index pressed, setKey index pressed s = .refused (.machineDead f)) ∧
    consumeFrame s = .refused (.machineDead f) ∧ soundActive s = .refused (.machineDead f))

/-! ### Invariants and rules of the whole machine -/

/-- 10_state R29, R31, 41_flow R103 (inferences the spec marks as derived) and the model's memory form (log entry 20):
every step keeps the invariant. -/
def Obligations.StepKeepsTheInvariant : Prop := ∀ s t : State, Inv s → step s = .next t → Inv t

/-- The invariant holds right after Construct, whatever the FONT, for every RESET inside its bounds (00_scope R6), and
so at State.reset, whose RESET is the default (log entry 4). -/
def Obligations.ResetMeetsTheInvariant : Prop :=
  (∀ (reset : ResetParams) (font : Font), reset.InBounds → Inv (State.construct reset font)) ∧
  defaultReset.InBounds ∧ Inv State.reset

/-- 50_host_interface R172, R175, R177: the host's operations keep the invariant. -/
def Obligations.HostOperationsKeepTheInvariant : Prop :=
  (∀ (s t : State) (image : List Byte) (r : LoadStatus), Inv s → loadImage image s = .next (r, t) → Inv t) ∧
  (∀ (s t : State) (index : Nat) (pressed : Bool), Inv s → setKey index pressed s = .next t → Inv t) ∧
  (∀ (s t : State) (frame : Option Display), Inv s → consumeFrame s = .next (frame, t) → Inv t)

/-- 10_state R40: key flags are set by the host; no instruction writes one, and a flag keeps its value through any
number of steps. -/
def Obligations.KeysChangeOnlyBySetKey : Prop :=
  (∀ (i : Instr) (s t : State), exec i s = .next t → t.key = s.key) ∧
  (∀ (n : Nat) (s t : State), Host.Core.run Sys2Proof.core n s = .next t → t.key = s.key) ∧
  (∀ (k : Key) (pressed : Bool) (s : State), s.fatal = none → ∃ t, setKey k.val pressed s = .next t ∧
    t.keyDown k = pressed ∧ ∀ j, j ≠ k → t.keyDown j = s.keyDown j)

/-- 10_state R27 (the spec's decision D9, log entry 11): I is written by Annn, Fx1E and Fx29 and by nothing else. -/
def Obligations.IndexWrittenByThreeInstructions : Prop :=
  ∀ (i : Instr) (s t : State), exec i s = .next t → writesIndex i = false → t.i = s.i

/-- 10_state section 1, 00_scope R11 (decision D10, log entry 11): memory is written by Fx33 and Fx55 and by no other
instruction. -/
def Obligations.MemoryWrittenByTwoInstructions : Prop :=
  ∀ (i : Instr) (s t : State), exec i s = .next t → storesToMemory i = false → KeepsMemory s t

/-- 10_state R38: DIRTY is set by every 00E0 and every Dxyn, is cleared only by a ConsumeFrame that found it set, and
no instruction reads it. -/
def Obligations.DirtyFlagIsSetByDrawingClearedByConsume : Prop :=
  (∀ (i : Instr) (s t : State), exec i s = .next t →
    (writesPicture i = true → t.dirty = true) ∧ (writesPicture i = false → KeepsPicture s t)) ∧
  (∀ (s t : State) (frame : Option Display), consumeFrame s = .next (frame, t) →
    t.dirty = false ∧ (s.dirty = false → t = s)) ∧
  (∀ (s t : State) (image : List Byte) (r : LoadStatus), loadImage image s = .next (r, t) → t.dirty = s.dirty) ∧
  (∀ (s t : State) (index : Nat) (pressed : Bool), setKey index pressed s = .next t → t.dirty = s.dirty) ∧
  (∀ (i : Instr) (s : State) (b : Bool),
    andThen (exec i { s with dirty := b }) (fun t => { t with dirty := false }) =
      andThen (exec i s) (fun t => { t with dirty := false }))

/-- 46_keys_timers R165 (no instruction reads ST) and 40_step_cycle R97 (the random byte matters only to Cxnn; that
draws are counted is the model's choice, log entry 5). -/
def Obligations.SoundTimerAndRandomByteAreNotReadElsewhere : Prop :=
  (∀ (i : Instr) (s : State) (b : Byte),
    andThen (exec i { s with st := b }) (fun t => { t with st := 0 }) = andThen (exec i s) (fun t => { t with st := 0 })) ∧
  (∀ (i : Instr) (s : State) (d : Nat), drawsRandom i = false →
    exec i { s with draws := d } = andThen (exec i s) (fun t => { t with draws := d }))

/-- 10_state R32 (the spec's decision D18, log entry 14): no instruction but 2nnn and 00EE touches the stack. -/
def Obligations.StackTouchedByCallAndRetOnly : Prop :=
  ∀ (i : Instr) (s t : State), exec i s = .next t → usesStack i = false → KeepsStack s t

/-- 00_scope R11 and 10_state R25 (decisions D10, D7; log entries 9, 11): a V register that is neither the destination
nor, for the seven flag writers, VF, is unchanged, for every instruction. -/
def Obligations.RegistersWrittenAreTheDestinations : Prop :=
  ∀ (i : Instr) (s t : State), exec i s = .next t → ∀ r, writesReg r i = false → t.getV r = s.getV r

/-- 10_state R34, R42, R43: only Fx15 writes DT and only Fx18 and Fx1E write ST in their bodies; no completed body
changes FATAL or the FONT parameter. -/
def Obligations.TimersFatalAndFontAreKept : Prop :=
  ∀ (i : Instr) (s t : State), exec i s = .next t →
    (writesDT i = false → t.dt = s.dt) ∧ (writesST i = false → t.st = s.st) ∧
    t.fatal = s.fatal ∧ t.mem.font = s.mem.font ∧ (drawsRandom i = false → t.draws = s.draws)

/-- 40_step_cycle R93: the next PC of every instruction; 23 of them always give pc0 + 2. R93 leaves two targets to the
instructions' own rules: that Bnnn's nnn + V0 is not reduced is the spec's decision D24 (41_flow R104, log entry 15), and
that 00EE resumes two bytes after the popped address is the resolution C3 of 90_conflicts (41_flow R101, log entry
26). -/
def Obligations.NextPcOfEveryInstruction : Prop :=
  (∀ (i : Instr) (s t : State), s.pc.toNat ≤ 0xFFE → exec i s = .next t →
    (alwaysAdvances i = true → t.pc.toNat = s.pc.toNat + 2) ∧
    (∀ nnn, i = .jp nnn ∨ i = .call nnn → t.pc.toNat = nnn.toNat) ∧
    (∀ nnn, i = .jpV0 nnn → t.pc.toNat = nnn.toNat + (s.getV 0).toNat) ∧
    (i = .ret → ∀ h : s.sp.val - 1 < 16, s.stack[s.sp.val - 1].toNat ≤ 0xFFE →
      t.pc.toNat = s.stack[s.sp.val - 1].toNat + 2) ∧
    (∀ x nn, i = .seImm x nn → t.pc.toNat = s.pc.toNat + (if s.getV x = nn then 4 else 2)) ∧
    (∀ x nn, i = .sneImm x nn → t.pc.toNat = s.pc.toNat + (if s.getV x ≠ nn then 4 else 2)) ∧
    (∀ x y, i = .seReg x y → t.pc.toNat = s.pc.toNat + (if s.getV x = s.getV y then 4 else 2)) ∧
    (∀ x y, i = .sneReg x y → t.pc.toNat = s.pc.toNat + (if s.getV x ≠ s.getV y then 4 else 2)) ∧
    (∀ x, i = .skp x → t.pc.toNat = s.pc.toNat + (if s.keyDown (lowNibble (s.getV x)) = true then 4 else 2)) ∧
    (∀ x, i = .sknp x → t.pc.toNat = s.pc.toNat + (if s.keyDown (lowNibble (s.getV x)) = true then 2 else 4)) ∧
    (∀ x, i = .ldVxK x → t.pc.toNat = s.pc.toNat + (if ∃ k, s.keyDown k = true then 2 else 0))) ∧
  (sampleInstrs.filter alwaysAdvances).length = 23

/-- 60_exceptions R191, R199, R202 (decisions D11, D14; log entries 8, 12): the fatals of the bodies are exactly these,
28 instructions have none, and no body is refused. -/
def Obligations.BodyFatalsAreExactlyThese : Prop :=
  ∀ (i : Instr) (s : State),
    (∀ f, exec i s = .fault f ↔
      ((∃ nnn, i = .call nnn) ∧ s.sp.val = 16 ∧ f = .stackOverflow s.pc) ∨
      (i = .ret ∧ s.sp.val = 0 ∧ f = .stackUnderflow s.pc) ∨
      (0 < dataCount i ∧ s.i.toNat + (dataCount i - 1) > 0xFFF ∧
        f = .dataAccessOutOfBounds (max s.i.toNat 0x1000))) ∧
    (∀ r, exec i s ≠ .refused r) ∧
    (Inv s → ∀ a, exec i s = .fault (.dataAccessOutOfBounds a) → a = 0x1000)

/-- 60_exceptions R194, R198: a CALL on a full stack and a RET on an empty one are fatal, and only then; nothing is
pushed or popped. -/
def Obligations.FullAndEmptyStackAreFatal : Prop :=
  (∀ (s : State) (nnn : Addr), (s.sp.val = 16 ↔ ∃ f, exec (.call nnn) s = .fault f) ∧
    (s.sp.val = 16 → exec (.call nnn) s = .fault (.stackOverflow s.pc))) ∧
  (∀ s : State, (s.sp.val = 0 ↔ ∃ f, exec .ret s = .fault f) ∧
    (s.sp.val = 0 → exec .ret s = .fault (.stackUnderflow s.pc))) ∧
  (∀ (s : State) (nnn : Addr), NextInstr s (.call nnn) → s.sp.val = 16 →
    step s = .fault (.stackOverflow s.pc) ∧ KeepsStack s (stepHost s)) ∧
  (∀ s : State, NextInstr s .ret → s.sp.val = 0 →
    step s = .fault (.stackUnderflow s.pc) ∧ KeepsStack s (stepHost s))

/-! ### Reset and memory -/

/-- 10_state R21, R30: after reset every cell is 0 but the 80 that hold FONT, and PC is 0x200, for every FONT and
RESET. -/
def Obligations.ResetLeavesMemoryFontAndPc : Prop :=
  ∀ (reset : ResetParams) (font : Font), (State.construct reset font).pc.toNat = 0x200 ∧
    ∀ a, a < 4096 → (State.construct reset font).readByte a =
      if h : 0x050 ≤ a ∧ a ≤ 0x09F then font[a - 0x050]'(by omega) else 0

/-- 00_scope R6, 70_reset_and_hazards R210: FATAL is none and every other register holds what the RESET parameter
gives it; at the default RESET that is zero, false or empty, by the spec's decision D2 (log entry 4). State.reset is
Construct with the default RESET and the default table of 10_state R26 (log entry 1). -/
def Obligations.ResetLeavesTheRestZero : Prop :=
  (∀ (reset : ResetParams) (font : Font) (s : State), s = State.construct reset font →
    (∀ r, s.getV r = reset.v[r.val]) ∧ s.i = reset.i ∧ s.sp = reset.sp ∧ s.stack = reset.stack ∧ s.dt = reset.dt ∧
    s.st = reset.st ∧ s.disp = reset.disp ∧ s.dirty = reset.dirty ∧ (∀ k, s.keyDown k = reset.key[k.val]) ∧
    s.fatal = none) ∧
  (∀ (font : Font) (s : State), s = State.construct defaultReset font →
    (∀ r, s.getV r = 0) ∧ s.i = 0 ∧ s.sp.val = 0 ∧ (∀ k : Fin 16, s.stack[k.val] = 0) ∧ s.dt = 0 ∧ s.st = 0 ∧
    (∀ c, cell s.disp c = false) ∧ s.dirty = false ∧ (∀ k, s.keyDown k = false)) ∧
  State.reset = State.construct defaultReset defaultFont ∧
  State.reset.readByte 0x050 = 0xF0#8 ∧ State.reset.readByte 0x087 = 0xE0#8 ∧ State.reset.readByte 0x09F = 0x80#8

/-- 20_memory R66: memory that nothing has written reads 0 or the font byte, whatever was written elsewhere, and a
fetch of two zero bytes is fatal. -/
def Obligations.UnwrittenMemoryReadsItsResetContents : Prop :=
  (∀ (font : Font) (writes : List (Nat × Byte)) (a : Nat), (∀ w ∈ writes, w.1 ≠ a) →
    (writes.foldl (fun m w => m.write w.1 w.2) (Memory.initial font)).read a =
      if h : 0x050 ≤ a ∧ a ≤ 0x09F then font[a - 0x050]'(by omega) else 0) ∧
  (∀ s : State, s.fatal = none → s.pc.toNat + 1 ≤ 0xFFF → s.readByte s.pc.toNat = 0 →
    s.readByte (s.pc.toNat + 1) = 0 → step s = .fault (.illegalInstruction 0#16))

/-- The model's memory form (log entry 20): memories in canonical form that read the same are the same data. -/
def Obligations.CanonicalMemoriesThatReadAlikeAreEqual : Prop :=
  ∀ m m' : Memory, m.wf = true → m'.wf = true → m.font = m'.font → (∀ a, m.read a = m'.read a) → m = m'

/-- 20_memory R63 (derived in the spec): whichever byte Fx33 or Fx55 stored, at address a = I + k, a later fetch of the
memory it left, from a or from a - 1, gives a word that contains that byte. -/
def Obligations.StoredBytesAreFetched : Prop :=
  ∀ (s t u : State) (i : Instr) (k : Nat) (h : k < (storedBytes i s).length), s.mem.wf = true → exec i s = .next t →
    u.mem = t.mem → u.pc.toNat + 1 ≤ 0xFFF →
    (u.pc.toNat = s.i.toNat + k →
      ∃ w : Word, fetchWord u = .ok w ∧ w.toNat / 256 = (storedBytes i s)[k].toNat) ∧
    (u.pc.toNat + 1 = s.i.toNat + k →
      ∃ w : Word, fetchWord u = .ok w ∧ w.toNat % 256 = (storedBytes i s)[k].toNat)

/-! ### The host's operations -/

/-- 50_host_interface R172 (the spec's decision D23, log entry 18): Load copies the image to 0x200 and writes nothing
else. -/
def Obligations.LoadCopiesTheImage : Prop :=
  ∀ (image : List Byte) (s : State), s.fatal = none → image.length < 3584 →
    ∃ t, loadImage image s = .next (.ok, t) ∧
      (s.mem.wf = true → ∀ (k : Nat) (h : k < image.length), t.readByte (0x200 + k) = image[k]) ∧
      (∀ a, a < 0x200 ∨ 0x200 + image.length ≤ a → t.readByte a = s.readByte a) ∧
      t = { s with mem := t.mem } ∧ t.mem.font = s.mem.font

/-- 50_host_interface R173: an image of 3584 bytes or more is rejected, nothing changes, and the machine stays alive. -/
def Obligations.OversizedImageIsRejected : Prop :=
  ∀ (image : List Byte) (s : State), s.fatal = none → image.length ≥ 3584 →
    loadImage image s = .next (.loadError, s)

/-- 50_host_interface R175: SetKey changes one flag, which holds through all later steps. -/
def Obligations.SetKeyWritesOneFlag : Prop :=
  ∀ (index : Key) (pressed : Bool) (s : State), s.fatal = none →
    ∃ t, setKey index.val pressed s = .next t ∧ t.keyDown index = pressed ∧
      (∀ k, k ≠ index → t.keyDown k = s.keyDown k) ∧ t = { s with key := t.key } ∧
      ∀ (n : Nat) (u : State), Host.Core.run Sys2Proof.core n t = .next u → u.keyDown index = pressed

/-- 50_host_interface R176: an index of 16 or more is fatal, with that index as the info. That the fatal SetKey then
changes nothing but FATAL is the spec's decision D13 (60_exceptions R196, log entry 7). -/
def Obligations.SetKeyBeyondFifteenIsFatal : Prop :=
  ∀ (index : Nat) (pressed : Bool) (s : State), s.fatal = none → index ≥ 16 →
    setKey index pressed s = .fault (.keyIndexOutOfRange index) ∧
    afterOutcome s (setKey index pressed s) = { s with fatal := some (.keyIndexOutOfRange index) }

/-- 50_host_interface R177: the current buffer once, DIRTY cleared, and then no new frame until the next drawing. -/
def Obligations.ConsumeFrameReadsAndClears : Prop :=
  ∀ s : State, s.fatal = none →
    (s.dirty = true → ∃ t, consumeFrame s = .next (some s.disp, t) ∧ t = { s with dirty := false } ∧
      consumeFrame t = .next (none, t)) ∧
    (s.dirty = false → consumeFrame s = .next (none, s))

/-- 50_host_interface R179 (the spec's decision D17, log entry 19): after Fx18 with Vx = N the host sees sound exactly
when N is at least 2, since the tick follows in the same step. -/
def Obligations.SoundIsSeenWhileSTIsNonzero : Prop :=
  (∀ s : State, s.fatal = none → soundActive s = .next (decide (s.st.toNat ≠ 0))) ∧
  (∀ (s : State) (x : Reg), NextInstr s (.ldSTVx x) → ∃ t, step s = .next t ∧
    soundActive t = .next (decide (2 ≤ (s.getV x).toNat)))

/-! ### Control transfer -/

/-- 41_flow R102, R104 (R104 by the spec's decision D24, log entry 15): absolute and indirect jumps, to any address,
odd or past the end included; no other state changes. -/
def Obligations.JumpsReachTheirTargets : Prop :=
  ∀ (s : State) (nnn : Addr),
    (∃ t, exec (.jp nnn) s = .next t ∧ t.pc.toNat = nnn.toNat ∧ OnlyRegsAndPc [] s t) ∧
    (∃ t, exec (.jpV0 nnn) s = .next t ∧ t.pc.toNat = nnn.toNat + (s.getV 0).toNat ∧ OnlyRegsAndPc [] s t)

/-- 41_flow R103: CALL pushes its own address and jumps. -/
def Obligations.CallPushesItsOwnAddress : Prop :=
  ∀ (s : State) (nnn : Addr) (h : s.sp.val < 16), ∃ t, exec (.call nnn) s = .next t ∧
    t.stack[s.sp.val] = s.pc ∧ (∀ k : Fin 16, k.val ≠ s.sp.val → t.stack[k.val] = s.stack[k.val]) ∧
    t.sp.val = s.sp.val + 1 ∧ t.pc.toNat = nnn.toNat ∧
    OnlyRegsAndPc [] { s with sp := t.sp, stack := t.stack } t

/-- 41_flow R101 (next PC: the resolution C3 of 90_conflicts): RET pops and resumes two bytes after the stacked
address. -/
def Obligations.RetResumesAfterTheStackedAddress : Prop :=
  ∀ (s : State) (_ : 0 < s.sp.val) (h : s.sp.val - 1 < 16), ∃ t, exec .ret s = .next t ∧
    t.sp.val = s.sp.val - 1 ∧ t.stack = s.stack ∧ t.pc = s.stack[s.sp.val - 1] + 2#16 ∧
    (s.stack[s.sp.val - 1].toNat ≤ 0xFFE → t.pc.toNat = s.stack[s.sp.val - 1].toNat + 2) ∧
    OnlyRegsAndPc [] { s with sp := t.sp } t

/-- 41_flow R101, R103 with 90_conflicts C3: a CALL, any work that leaves the stack at the depth and contents it has
after the call, and a RET resume at the word after the CALL, with the caller's stack. -/
def Obligations.CallAndReturnRoundTrip : Prop :=
  ∀ (s : State) (nnn : Addr), s.sp.val < 16 → ∃ t, exec (.call nnn) s = .next t ∧
    ∀ t' : State, t'.sp = t.sp → (∀ k : Fin 16, k.val < t.sp.val → t'.stack[k.val] = t.stack[k.val]) →
      ∃ u, exec .ret t' = .next u ∧ u.pc = s.pc + 2#16 ∧ u.sp = s.sp ∧
        ∀ k : Fin 16, k.val < s.sp.val → u.stack[k.val] = s.stack[k.val]

/-- 42_skip R114: the four register skips take pc0 + 4 exactly when the comparison holds, else pc0 + 2, write nothing
else, never fail in their own step, and leave a PC past 0xFFE to the next step. -/
def Obligations.RegisterSkipsCompareForEquality : Prop :=
  ∀ (s : State) (x y : Reg) (nn : Byte), s.pc.toNat ≤ 0xFFE →
    ∀ (i : Instr) (c : Prop), (i = .seImm x nn ∧ c = (s.getV x = nn)) ∨ (i = .sneImm x nn ∧ c = (s.getV x ≠ nn)) ∨
      (i = .seReg x y ∧ c = (s.getV x = s.getV y)) ∨ (i = .sneReg x y ∧ c = (s.getV x ≠ s.getV y)) →
    ∃ t, exec i s = .next t ∧ (c → t.pc.toNat = s.pc.toNat + 4) ∧ (¬c → t.pc.toNat = s.pc.toNat + 2) ∧
      OnlyRegsAndPc [] s t ∧
      (s.fatal = none → s.pc.toNat = 0xFFE → step t = .fault (.fetchOutOfBounds t.pc))

/-! ### Registers and arithmetic -/

/-- 43_alu R120, R122: load immediate and copy, for every destination, VF included. -/
def Obligations.LoadImmediateAndCopy : Prop :=
  ∀ (s : State) (x y : Reg) (nn : Byte),
    (∃ t, exec (.ldImm x nn) s = .next t ∧ t.getV x = nn ∧ t.pc = s.pc + 2#16 ∧ OnlyRegsAndPc [x] s t) ∧
    (∃ t, exec (.ldReg x y) s = .next t ∧ t.getV x = s.getV y ∧ t.pc = s.pc + 2#16 ∧ OnlyRegsAndPc [x] s t)

/-- 43_alu R123 to R125 (VF unchanged: the spec's decision D10, log entry 11): bit by bit, and nothing but Vx. -/
def Obligations.LogicActsBitByBitAndLeavesVF : Prop :=
  ∀ (s : State) (x y : Reg),
    (∃ t, exec (.orReg x y) s = .next t ∧ t.pc = s.pc + 2#16 ∧ OnlyRegsAndPc [x] s t ∧
      ∀ k, (t.getV x).getLsbD k = ((s.getV x).getLsbD k || (s.getV y).getLsbD k)) ∧
    (∃ t, exec (.andReg x y) s = .next t ∧ t.pc = s.pc + 2#16 ∧ OnlyRegsAndPc [x] s t ∧
      ∀ k, (t.getV x).getLsbD k = ((s.getV x).getLsbD k && (s.getV y).getLsbD k)) ∧
    (∃ t, exec (.xorReg x y) s = .next t ∧ t.pc = s.pc + 2#16 ∧ OnlyRegsAndPc [x] s t ∧
      ∀ k, (t.getV x).getLsbD k = ((s.getV x).getLsbD k ^^ (s.getV y).getLsbD k))

/-- 43_alu R132: the laws of addition, subtraction and shifts and their flags, row by row of the rule's table. The rows
whose result goes to a V register are stated for a destination other than VF; `FlagWinsWhenVFIsTheDestination` states
the rest. -/
def Obligations.ArithmeticAndItsFlags : Prop :=
  ∀ (s : State) (x y : Reg) (nn : Byte),
    (∃ t, exec (.addImm x nn) s = .next t ∧ (t.getV x).toNat = ((s.getV x).toNat + nn.toNat) % 256 ∧
      AdvancesByTwo s t ∧ OnlyRegsAndPc [x] s t) ∧
    (x ≠ vf →
      (∃ t, exec (.addReg x y) s = .next t ∧
        (t.getV x).toNat = ((s.getV x).toNat + (s.getV y).toNat) % 256 ∧
        (t.getV vf).toNat = (if (s.getV x).toNat + (s.getV y).toNat > 255 then 1 else 0) ∧
        AdvancesByTwo s t ∧ OnlyRegsAndPc [x, vf] s t) ∧
      (∃ t, exec (.subReg x y) s = .next t ∧
        (t.getV x).toNat = ((s.getV x).toNat + 256 - (s.getV y).toNat) % 256 ∧
        (t.getV vf).toNat = (if (s.getV x).toNat ≥ (s.getV y).toNat then 1 else 0) ∧
        AdvancesByTwo s t ∧ OnlyRegsAndPc [x, vf] s t) ∧
      (∃ t, exec (.subnReg x y) s = .next t ∧
        (t.getV x).toNat = ((s.getV y).toNat + 256 - (s.getV x).toNat) % 256 ∧
        (t.getV vf).toNat = (if (s.getV y).toNat ≥ (s.getV x).toNat then 1 else 0) ∧
        AdvancesByTwo s t ∧ OnlyRegsAndPc [x, vf] s t) ∧
      (∃ t, exec (.shr x) s = .next t ∧ (t.getV x).toNat = (s.getV x).toNat / 2 ∧
        (t.getV vf).toNat = (s.getV x).toNat % 2 ∧ AdvancesByTwo s t ∧ OnlyRegsAndPc [x, vf] s t) ∧
      (∃ t, exec (.shl x) s = .next t ∧ (t.getV x).toNat = ((s.getV x).toNat * 2) % 256 ∧
        (t.getV vf).toNat = (if (s.getV x).toNat ≥ 0x80 then 0x80 else 0) ∧
        AdvancesByTwo s t ∧ OnlyRegsAndPc [x, vf] s t)) ∧
    (∃ t, exec (.addI x) s = .next t ∧ t.i.toNat = (s.i.toNat + (s.getV x).toNat) % 4096 ∧
      (t.getV vf).toNat = (if s.i.toNat + (s.getV x).toNat > 0xFFF then 1 else 0) ∧
      AdvancesByTwo s t ∧ OnlyRegsAndPc [vf] { s with i := t.i, st := t.st } t)

/-- 43_alu R131 (the spec's decision D7, log entry 9): with x = 0xF the old VF is the operand and the flag is what VF
holds in the end. -/
def Obligations.FlagWinsWhenVFIsTheDestination : Prop :=
  ∀ (s : State) (y : Reg),
    (∃ t, exec (.addReg vf y) s = .next t ∧ t.pc = s.pc + 2#16 ∧ OnlyRegsAndPc [vf] s t ∧
      (t.getV vf).toNat = (if (s.getV vf).toNat + (s.getV y).toNat > 255 then 1 else 0)) ∧
    (∃ t, exec (.subReg vf y) s = .next t ∧ t.pc = s.pc + 2#16 ∧ OnlyRegsAndPc [vf] s t ∧
      (t.getV vf).toNat = (if (s.getV vf).toNat ≥ (s.getV y).toNat then 1 else 0)) ∧
    (∃ t, exec (.subnReg vf y) s = .next t ∧ t.pc = s.pc + 2#16 ∧ OnlyRegsAndPc [vf] s t ∧
      (t.getV vf).toNat = (if (s.getV y).toNat ≥ (s.getV vf).toNat then 1 else 0)) ∧
    (∃ t, exec (.shr vf) s = .next t ∧ t.pc = s.pc + 2#16 ∧ OnlyRegsAndPc [vf] s t ∧
      (t.getV vf).toNat = (s.getV vf).toNat % 2) ∧
    (∃ t, exec (.shl vf) s = .next t ∧ t.pc = s.pc + 2#16 ∧ OnlyRegsAndPc [vf] s t ∧
      (t.getV vf).toNat = (if (s.getV vf).toNat ≥ 0x80 then 0x80 else 0))

/-- 43_alu R133, R134: Vx is the random byte, whatever it is (a free value, log entry 5), masked by nn. -/
def Obligations.RandomByteIsMasked : Prop :=
  ∀ (s : State) (x : Reg) (nn : Byte), ∃ t, exec (.rnd x nn) s = .next t ∧
    (∀ k, (t.getV x).getLsbD k = ((Config.randomByte s.draws).getLsbD k && nn.getLsbD k)) ∧
    (∀ k, nn.getLsbD k = false → (t.getV x).getLsbD k = false) ∧
    t.pc = s.pc + 2#16 ∧ OnlyRegsAndPc [x] { s with draws := t.draws } t

/-! ### Index register and memory -/

/-- 44_index_memory R140, R142: I is loaded with nnn, or with the address of the glyph of Vx's low nibble. -/
def Obligations.IndexIsLoaded : Prop :=
  ∀ (s : State) (x : Reg) (nnn : Addr),
    (∃ t, exec (.ldI nnn) s = .next t ∧ t.i.toNat = nnn.toNat ∧ t.pc = s.pc + 2#16 ∧
      OnlyRegsAndPc [] { s with i := t.i } t) ∧
    (∃ t, exec (.ldF x) s = .next t ∧ t.i.toNat = 0x050 + 5 * ((s.getV x).toNat % 16) ∧ t.pc = s.pc + 2#16 ∧
      OnlyRegsAndPc [] { s with i := t.i } t)

/-- 44_index_memory R141 (order of reads and writes: the spec's decision D7, log entry 9): Fx1E writes I, VF and ST,
all from the values before it, x = 0xF included; after the step ST is one less. -/
def Obligations.AddToIndexWritesIndexFlagAndSoundTimer : Prop :=
  ∀ (s : State) (x : Reg),
    (∃ t, exec (.addI x) s = .next t ∧ t.i.toNat = (s.i.toNat + (s.getV x).toNat) % 4096 ∧ t.st = s.getV x ∧
      (t.getV vf).toNat = (if s.i.toNat + (s.getV x).toNat > 0xFFF then 1 else 0) ∧ t.pc = s.pc + 2#16 ∧
      OnlyRegsAndPc [vf] { s with i := t.i, st := t.st } t) ∧
    (NextInstr s (.addI x) → ∃ t, step s = .next t ∧ t.st.toNat = (s.getV x).toNat - 1)

/-- 44_index_memory R144: three decimal digits at I, I+1, I+2, every other byte and I unchanged. -/
def Obligations.BcdStoresThreeDigits : Prop :=
  ∀ (s : State) (x : Reg), s.i.toNat + 2 ≤ 0xFFF → ∃ t, exec (.ldB x) s = .next t ∧
    (s.mem.wf = true →
      (t.readByte s.i.toNat).toNat = (s.getV x).toNat / 100 ∧
      (t.readByte (s.i.toNat + 1)).toNat = (s.getV x).toNat / 10 % 10 ∧
      (t.readByte (s.i.toNat + 2)).toNat = (s.getV x).toNat % 10) ∧
    (∀ a, a < s.i.toNat ∨ s.i.toNat + 3 ≤ a → t.readByte a = s.readByte a) ∧
    t.mem.font = s.mem.font ∧ t.pc = s.pc + 2#16 ∧ OnlyRegsAndPc [] { s with mem := t.mem } t

/-- 44_index_memory R145: V0 to Vx at I, I+1, …, I+x, every other byte, the registers and I unchanged. -/
def Obligations.BulkStoreCopiesRegistersToMemory : Prop :=
  ∀ (s : State) (x : Reg), s.i.toNat + x.val ≤ 0xFFF → ∃ t, exec (.storeRegs x) s = .next t ∧
    (s.mem.wf = true → ∀ k : Reg, k ≤ x → t.readByte (s.i.toNat + k.val) = s.getV k) ∧
    (∀ a, a < s.i.toNat ∨ s.i.toNat + (x.val + 1) ≤ a → t.readByte a = s.readByte a) ∧
    t.mem.font = s.mem.font ∧ t.pc = s.pc + 2#16 ∧ OnlyRegsAndPc [] { s with mem := t.mem } t

/-- 44_index_memory R146: V0 to Vx from I, I+1, …, I+x, the other registers, memory and I unchanged. -/
def Obligations.BulkLoadCopiesMemoryToRegisters : Prop :=
  ∀ (s : State) (x : Reg), s.i.toNat + x.val ≤ 0xFFF → ∃ t, exec (.loadRegs x) s = .next t ∧
    (∀ k : Reg, k ≤ x → t.getV k = s.readByte (s.i.toNat + k.val)) ∧
    (∀ k : Reg, x < k → t.getV k = s.getV k) ∧
    t.pc = s.pc + 2#16 ∧ OnlyRegsAndPc ((List.finRange 16).filter (fun k => k ≤ x)) s t

/-! ### Display -/

/-- 45_display R150: every cell 0, DIRTY true, nothing else but PC. -/
def Obligations.ClearBlanksTheDisplay : Prop :=
  ∀ s : State, ∃ t, exec .cls s = .next t ∧ (∀ c, cell t.disp c = false) ∧ t.dirty = true ∧ t.pc = s.pc + 2#16 ∧
    OnlyRegsAndPc [] { s with disp := t.disp, dirty := t.dirty } t

/-- 45_display R151 (coordinates before VF: decision D7, log entry 9; index on naturals: D19, log entry 24): exactly
the cells under set sprite bits are XORed, VF says whether one of them was set, DIRTY is set, nothing else but PC. -/
def Obligations.DrawXorsExactlyTheSpriteCells : Prop :=
  ∀ (s : State) (x y : Reg) (n : Nibble), (n.toNat = 0 ∨ s.i.toNat + (n.toNat - 1) ≤ 0xFFF) →
    ∃ t, exec (.drw x y n) s = .next t ∧
      (∀ c, covers s x y n c → cell t.disp c = !(cell s.disp c)) ∧
      (∀ c, ¬ covers s x y n c → cell t.disp c = cell s.disp c) ∧
      ((∃ c, covers s x y n c ∧ cell s.disp c = true) → t.getV vf = 1) ∧
      ((∀ c, covers s x y n c → cell s.disp c = false) → t.getV vf = 0) ∧
      t.dirty = true ∧ t.pc = s.pc + 2#16 ∧ OnlyRegsAndPc [vf] { s with disp := t.disp, dirty := t.dirty } t

/-- 45_display R153 (derived in the spec): drawing twice restores the picture, and the second draw collides exactly
when the first raised a cell; neither coordinate register is VF. -/
def Obligations.DrawingTwiceRestoresThePicture : Prop :=
  ∀ (s : State) (x y : Reg) (n : Nibble), x ≠ vf → y ≠ vf → (n.toNat = 0 ∨ s.i.toNat + (n.toNat - 1) ≤ 0xFFF) →
    ∃ t u, exec (.drw x y n) s = .next t ∧ exec (.drw x y n) t = .next u ∧ u.disp = s.disp ∧
      (u.getV vf = 1 ↔ ∃ c, covers s x y n c ∧ cell s.disp c = false) ∧ (u.getV vf = 1 ∨ u.getV vf = 0)

/-! ### Keys and timers -/

/-- 46_keys_timers R160, R161, R166: the key skips test the flag that Vx's low nibble selects, and write nothing else. -/
def Obligations.KeySkipsTestTheSelectedKey : Prop :=
  ∀ (s : State) (x : Reg) (k : Key), k.val = (s.getV x).toNat % 16 →
    (∃ t, exec (.skp x) s = .next t ∧ t.pc = (if s.keyDown k = true then s.pc + 4#16 else s.pc + 2#16) ∧
      OnlyRegsAndPc [] s t) ∧
    (∃ t, exec (.sknp x) s = .next t ∧ t.pc = (if s.keyDown k = true then s.pc + 2#16 else s.pc + 4#16) ∧
      OnlyRegsAndPc [] s t)

/-- 46_keys_timers R163 (the tick of a waiting step: 40_step_cycle R96, decision D15, log entry 17): the least pressed
key is stored; with none the instruction stays, and the step changes the timers alone. -/
def Obligations.WaitForKeyTakesTheLeastPressedKey : Prop :=
  ∀ (s : State) (x : Reg),
    (∀ k : Key, s.keyDown k = true → (∀ j, j < k → s.keyDown j = false) →
      ∃ t, exec (.ldVxK x) s = .next t ∧ (t.getV x).toNat = k.val ∧ t.pc = s.pc + 2#16 ∧ OnlyRegsAndPc [x] s t) ∧
    ((∀ k, s.keyDown k = false) → exec (.ldVxK x) s = .next s ∧
      (NextInstr s (.ldVxK x) → ∃ t, step s = .next t ∧ t = { s with dt := t.dt, st := t.st } ∧
        t.dt.toNat = s.dt.toNat - 1 ∧ t.st.toNat = s.st.toNat - 1))

/-- 46_keys_timers R162, R164, R165: the timer moves, before the tick. -/
def Obligations.TimersAreReadAndSet : Prop :=
  ∀ (s : State) (x : Reg),
    (∃ t, exec (.ldVxDT x) s = .next t ∧ t.getV x = s.dt ∧ t.pc = s.pc + 2#16 ∧ OnlyRegsAndPc [x] s t) ∧
    (∃ t, exec (.ldDTVx x) s = .next t ∧ t.dt = s.getV x ∧ t.pc = s.pc + 2#16 ∧
      OnlyRegsAndPc [] { s with dt := t.dt } t) ∧
    (∃ t, exec (.ldSTVx x) s = .next t ∧ t.st = s.getV x ∧ t.pc = s.pc + 2#16 ∧
      OnlyRegsAndPc [] { s with st := t.st } t)

/-- 40_step_cycle R98 (derived in the spec): a timer that no step rewrites falls by one a step, to 0 and no further. -/
def Obligations.TimersDecayByOneAStep : Prop :=
  ∀ (n : Nat) (s t : State),
    (RunsWithout writesDT n s t → t.dt.toNat = s.dt.toNat - n) ∧
    (RunsWithout writesST n s t → t.st.toNat = s.st.toNat - n)

/-- 70_reset_and_hazards R222 (derived in the spec): a jump to itself changes the timers alone, and with both at 0 the
state is a fixed point of the step. -/
def Obligations.IdleLoopIsAFixedPoint : Prop :=
  ∀ (s : State) (nnn : Addr), NextInstr s (.jp nnn) → nnn.toNat = s.pc.toNat →
    (∃ t, step s = .next t ∧ t = { s with dt := t.dt, st := t.st } ∧ t.dt.toNat = s.dt.toNat - 1 ∧
      t.st.toNat = s.st.toNat - 1) ∧
    (s.dt = 0 → s.st = 0 → step s = .next s)
end

