-- ==== Sys2Proof/Laws/State.lean ====
section
/-! SUPPORT. One lemma per field of State per update, true by unfolding, so that no proof unfolds a record update. -/

namespace Sys2Proof.Machine

variable (s : State)

@[simp] theorem State.setV_i (x : Reg) (b : Byte) : (s.setV x b).i = s.i := rfl
@[simp] theorem State.setV_pc (x : Reg) (b : Byte) : (s.setV x b).pc = s.pc := rfl
@[simp] theorem State.setV_sp (x : Reg) (b : Byte) : (s.setV x b).sp = s.sp := rfl
@[simp] theorem State.setV_stack (x : Reg) (b : Byte) : (s.setV x b).stack = s.stack := rfl
@[simp] theorem State.setV_dt (x : Reg) (b : Byte) : (s.setV x b).dt = s.dt := rfl
@[simp] theorem State.setV_st (x : Reg) (b : Byte) : (s.setV x b).st = s.st := rfl
@[simp] theorem State.setV_disp (x : Reg) (b : Byte) : (s.setV x b).disp = s.disp := rfl
@[simp] theorem State.setV_dirty (x : Reg) (b : Byte) : (s.setV x b).dirty = s.dirty := rfl
@[simp] theorem State.setV_key (x : Reg) (b : Byte) : (s.setV x b).key = s.key := rfl
@[simp] theorem State.setV_mem (x : Reg) (b : Byte) : (s.setV x b).mem = s.mem := rfl
@[simp] theorem State.setV_fatal (x : Reg) (b : Byte) : (s.setV x b).fatal = s.fatal := rfl
@[simp] theorem State.setV_draws (x : Reg) (b : Byte) : (s.setV x b).draws = s.draws := rfl
@[simp] theorem State.setV_keyDown (x : Reg) (b : Byte) (k : Key) : (s.setV x b).keyDown k = s.keyDown k := rfl
@[simp] theorem State.setV_readByte (x : Reg) (b : Byte) (a : Nat) : (s.setV x b).readByte a = s.readByte a := rfl
@[simp] theorem State.setV_rndByte (x : Reg) (b : Byte) : (s.setV x b).rndByte = s.rndByte := rfl

@[simp] theorem State.setResultAndFlag_i (x : Reg) (b f : Byte) : (s.setResultAndFlag x b f).i = s.i := rfl
@[simp] theorem State.setResultAndFlag_pc (x : Reg) (b f : Byte) : (s.setResultAndFlag x b f).pc = s.pc := rfl
@[simp] theorem State.setResultAndFlag_sp (x : Reg) (b f : Byte) : (s.setResultAndFlag x b f).sp = s.sp := rfl
@[simp] theorem State.setResultAndFlag_stack (x : Reg) (b f : Byte) : (s.setResultAndFlag x b f).stack = s.stack := rfl
@[simp] theorem State.setResultAndFlag_dt (x : Reg) (b f : Byte) : (s.setResultAndFlag x b f).dt = s.dt := rfl
@[simp] theorem State.setResultAndFlag_st (x : Reg) (b f : Byte) : (s.setResultAndFlag x b f).st = s.st := rfl
@[simp] theorem State.setResultAndFlag_disp (x : Reg) (b f : Byte) : (s.setResultAndFlag x b f).disp = s.disp := rfl
@[simp] theorem State.setResultAndFlag_dirty (x : Reg) (b f : Byte) : (s.setResultAndFlag x b f).dirty = s.dirty := rfl
@[simp] theorem State.setResultAndFlag_key (x : Reg) (b f : Byte) : (s.setResultAndFlag x b f).key = s.key := rfl
@[simp] theorem State.setResultAndFlag_mem (x : Reg) (b f : Byte) : (s.setResultAndFlag x b f).mem = s.mem := rfl
@[simp] theorem State.setResultAndFlag_fatal (x : Reg) (b f : Byte) : (s.setResultAndFlag x b f).fatal = s.fatal := rfl
@[simp] theorem State.setResultAndFlag_draws (x : Reg) (b f : Byte) : (s.setResultAndFlag x b f).draws = s.draws := rfl
@[simp] theorem State.setResultAndFlag_keyDown (x : Reg) (b f : Byte) (k : Key) : (s.setResultAndFlag x b f).keyDown k = s.keyDown k := rfl
@[simp] theorem State.setResultAndFlag_readByte (x : Reg) (b f : Byte) (a : Nat) : (s.setResultAndFlag x b f).readByte a = s.readByte a := rfl
@[simp] theorem State.setResultAndFlag_rndByte (x : Reg) (b f : Byte) : (s.setResultAndFlag x b f).rndByte = s.rndByte := rfl

@[simp] theorem State.loadV_i (x : Reg) (f : Nat → Byte) : (s.loadV x f).i = s.i := rfl
@[simp] theorem State.loadV_pc (x : Reg) (f : Nat → Byte) : (s.loadV x f).pc = s.pc := rfl
@[simp] theorem State.loadV_sp (x : Reg) (f : Nat → Byte) : (s.loadV x f).sp = s.sp := rfl
@[simp] theorem State.loadV_stack (x : Reg) (f : Nat → Byte) : (s.loadV x f).stack = s.stack := rfl
@[simp] theorem State.loadV_dt (x : Reg) (f : Nat → Byte) : (s.loadV x f).dt = s.dt := rfl
@[simp] theorem State.loadV_st (x : Reg) (f : Nat → Byte) : (s.loadV x f).st = s.st := rfl
@[simp] theorem State.loadV_disp (x : Reg) (f : Nat → Byte) : (s.loadV x f).disp = s.disp := rfl
@[simp] theorem State.loadV_dirty (x : Reg) (f : Nat → Byte) : (s.loadV x f).dirty = s.dirty := rfl
@[simp] theorem State.loadV_key (x : Reg) (f : Nat → Byte) : (s.loadV x f).key = s.key := rfl
@[simp] theorem State.loadV_mem (x : Reg) (f : Nat → Byte) : (s.loadV x f).mem = s.mem := rfl
@[simp] theorem State.loadV_fatal (x : Reg) (f : Nat → Byte) : (s.loadV x f).fatal = s.fatal := rfl
@[simp] theorem State.loadV_draws (x : Reg) (f : Nat → Byte) : (s.loadV x f).draws = s.draws := rfl
@[simp] theorem State.loadV_keyDown (x : Reg) (f : Nat → Byte) (k : Key) : (s.loadV x f).keyDown k = s.keyDown k := rfl
@[simp] theorem State.loadV_readByte (x : Reg) (f : Nat → Byte) (a : Nat) : (s.loadV x f).readByte a = s.readByte a := rfl
@[simp] theorem State.loadV_rndByte (x : Reg) (f : Nat → Byte) : (s.loadV x f).rndByte = s.rndByte := rfl

@[simp] theorem State.setI_v (a : Word) : (s.setI a).v = s.v := rfl
@[simp] theorem State.setI_i (a : Word) : (s.setI a).i = a := rfl
@[simp] theorem State.setI_pc (a : Word) : (s.setI a).pc = s.pc := rfl
@[simp] theorem State.setI_sp (a : Word) : (s.setI a).sp = s.sp := rfl
@[simp] theorem State.setI_stack (a : Word) : (s.setI a).stack = s.stack := rfl
@[simp] theorem State.setI_dt (a : Word) : (s.setI a).dt = s.dt := rfl
@[simp] theorem State.setI_st (a : Word) : (s.setI a).st = s.st := rfl
@[simp] theorem State.setI_disp (a : Word) : (s.setI a).disp = s.disp := rfl
@[simp] theorem State.setI_dirty (a : Word) : (s.setI a).dirty = s.dirty := rfl
@[simp] theorem State.setI_key (a : Word) : (s.setI a).key = s.key := rfl
@[simp] theorem State.setI_mem (a : Word) : (s.setI a).mem = s.mem := rfl
@[simp] theorem State.setI_fatal (a : Word) : (s.setI a).fatal = s.fatal := rfl
@[simp] theorem State.setI_draws (a : Word) : (s.setI a).draws = s.draws := rfl
@[simp] theorem State.setI_getV (a : Word) (r : Reg) : (s.setI a).getV r = s.getV r := rfl
@[simp] theorem State.setI_keyDown (a : Word) (k : Key) : (s.setI a).keyDown k = s.keyDown k := rfl
@[simp] theorem State.setI_readByte (a : Word) (c : Nat) : (s.setI a).readByte c = s.readByte c := rfl
@[simp] theorem State.setI_rndByte (a : Word) : (s.setI a).rndByte = s.rndByte := rfl

@[simp] theorem State.setDT_v (b : Byte) : (s.setDT b).v = s.v := rfl
@[simp] theorem State.setDT_i (b : Byte) : (s.setDT b).i = s.i := rfl
@[simp] theorem State.setDT_pc (b : Byte) : (s.setDT b).pc = s.pc := rfl
@[simp] theorem State.setDT_sp (b : Byte) : (s.setDT b).sp = s.sp := rfl
@[simp] theorem State.setDT_stack (b : Byte) : (s.setDT b).stack = s.stack := rfl
@[simp] theorem State.setDT_dt (b : Byte) : (s.setDT b).dt = b := rfl
@[simp] theorem State.setDT_st (b : Byte) : (s.setDT b).st = s.st := rfl
@[simp] theorem State.setDT_disp (b : Byte) : (s.setDT b).disp = s.disp := rfl
@[simp] theorem State.setDT_dirty (b : Byte) : (s.setDT b).dirty = s.dirty := rfl
@[simp] theorem State.setDT_key (b : Byte) : (s.setDT b).key = s.key := rfl
@[simp] theorem State.setDT_mem (b : Byte) : (s.setDT b).mem = s.mem := rfl
@[simp] theorem State.setDT_fatal (b : Byte) : (s.setDT b).fatal = s.fatal := rfl
@[simp] theorem State.setDT_draws (b : Byte) : (s.setDT b).draws = s.draws := rfl
@[simp] theorem State.setDT_getV (b : Byte) (r : Reg) : (s.setDT b).getV r = s.getV r := rfl
@[simp] theorem State.setDT_keyDown (b : Byte) (k : Key) : (s.setDT b).keyDown k = s.keyDown k := rfl
@[simp] theorem State.setDT_readByte (b : Byte) (a : Nat) : (s.setDT b).readByte a = s.readByte a := rfl
@[simp] theorem State.setDT_rndByte (b : Byte) : (s.setDT b).rndByte = s.rndByte := rfl

@[simp] theorem State.setST_v (b : Byte) : (s.setST b).v = s.v := rfl
@[simp] theorem State.setST_i (b : Byte) : (s.setST b).i = s.i := rfl
@[simp] theorem State.setST_pc (b : Byte) : (s.setST b).pc = s.pc := rfl
@[simp] theorem State.setST_sp (b : Byte) : (s.setST b).sp = s.sp := rfl
@[simp] theorem State.setST_stack (b : Byte) : (s.setST b).stack = s.stack := rfl
@[simp] theorem State.setST_dt (b : Byte) : (s.setST b).dt = s.dt := rfl
@[simp] theorem State.setST_st (b : Byte) : (s.setST b).st = b := rfl
@[simp] theorem State.setST_disp (b : Byte) : (s.setST b).disp = s.disp := rfl
@[simp] theorem State.setST_dirty (b : Byte) : (s.setST b).dirty = s.dirty := rfl
@[simp] theorem State.setST_key (b : Byte) : (s.setST b).key = s.key := rfl
@[simp] theorem State.setST_mem (b : Byte) : (s.setST b).mem = s.mem := rfl
@[simp] theorem State.setST_fatal (b : Byte) : (s.setST b).fatal = s.fatal := rfl
@[simp] theorem State.setST_draws (b : Byte) : (s.setST b).draws = s.draws := rfl
@[simp] theorem State.setST_getV (b : Byte) (r : Reg) : (s.setST b).getV r = s.getV r := rfl
@[simp] theorem State.setST_keyDown (b : Byte) (k : Key) : (s.setST b).keyDown k = s.keyDown k := rfl
@[simp] theorem State.setST_readByte (b : Byte) (a : Nat) : (s.setST b).readByte a = s.readByte a := rfl
@[simp] theorem State.setST_rndByte (b : Byte) : (s.setST b).rndByte = s.rndByte := rfl

@[simp] theorem State.jump_v (a : Word) : (s.jump a).v = s.v := rfl
@[simp] theorem State.jump_i (a : Word) : (s.jump a).i = s.i := rfl
@[simp] theorem State.jump_pc (a : Word) : (s.jump a).pc = a := rfl
@[simp] theorem State.jump_sp (a : Word) : (s.jump a).sp = s.sp := rfl
@[simp] theorem State.jump_stack (a : Word) : (s.jump a).stack = s.stack := rfl
@[simp] theorem State.jump_dt (a : Word) : (s.jump a).dt = s.dt := rfl
@[simp] theorem State.jump_st (a : Word) : (s.jump a).st = s.st := rfl
@[simp] theorem State.jump_disp (a : Word) : (s.jump a).disp = s.disp := rfl
@[simp] theorem State.jump_dirty (a : Word) : (s.jump a).dirty = s.dirty := rfl
@[simp] theorem State.jump_key (a : Word) : (s.jump a).key = s.key := rfl
@[simp] theorem State.jump_mem (a : Word) : (s.jump a).mem = s.mem := rfl
@[simp] theorem State.jump_fatal (a : Word) : (s.jump a).fatal = s.fatal := rfl
@[simp] theorem State.jump_draws (a : Word) : (s.jump a).draws = s.draws := rfl
@[simp] theorem State.jump_getV (a : Word) (r : Reg) : (s.jump a).getV r = s.getV r := rfl
@[simp] theorem State.jump_keyDown (a : Word) (k : Key) : (s.jump a).keyDown k = s.keyDown k := rfl
@[simp] theorem State.jump_readByte (a : Word) (c : Nat) : (s.jump a).readByte c = s.readByte c := rfl
@[simp] theorem State.jump_rndByte (a : Word) : (s.jump a).rndByte = s.rndByte := rfl

@[simp] theorem State.advance_v : (s.advance).v = s.v := rfl
@[simp] theorem State.advance_i : (s.advance).i = s.i := rfl
@[simp] theorem State.advance_pc : (s.advance).pc = s.pc + insnBytes := rfl
@[simp] theorem State.advance_sp : (s.advance).sp = s.sp := rfl
@[simp] theorem State.advance_stack : (s.advance).stack = s.stack := rfl
@[simp] theorem State.advance_dt : (s.advance).dt = s.dt := rfl
@[simp] theorem State.advance_st : (s.advance).st = s.st := rfl
@[simp] theorem State.advance_disp : (s.advance).disp = s.disp := rfl
@[simp] theorem State.advance_dirty : (s.advance).dirty = s.dirty := rfl
@[simp] theorem State.advance_key : (s.advance).key = s.key := rfl
@[simp] theorem State.advance_mem : (s.advance).mem = s.mem := rfl
@[simp] theorem State.advance_fatal : (s.advance).fatal = s.fatal := rfl
@[simp] theorem State.advance_draws : (s.advance).draws = s.draws := rfl
@[simp] theorem State.advance_getV (r : Reg) : (s.advance).getV r = s.getV r := rfl
@[simp] theorem State.advance_keyDown (k : Key) : (s.advance).keyDown k = s.keyDown k := rfl
@[simp] theorem State.advance_readByte (a : Nat) : (s.advance).readByte a = s.readByte a := rfl
@[simp] theorem State.advance_rndByte : (s.advance).rndByte = s.rndByte := rfl

@[simp] theorem State.skipIf_v (c : Bool) : (s.skipIf c).v = s.v := by cases c <;> rfl
@[simp] theorem State.skipIf_i (c : Bool) : (s.skipIf c).i = s.i := by cases c <;> rfl
@[simp] theorem State.skipIf_pc (c : Bool) : (s.skipIf c).pc = if c then s.pc + insnBytes + insnBytes else s.pc + insnBytes := by cases c <;> rfl
@[simp] theorem State.skipIf_sp (c : Bool) : (s.skipIf c).sp = s.sp := by cases c <;> rfl
@[simp] theorem State.skipIf_stack (c : Bool) : (s.skipIf c).stack = s.stack := by cases c <;> rfl
@[simp] theorem State.skipIf_dt (c : Bool) : (s.skipIf c).dt = s.dt := by cases c <;> rfl
@[simp] theorem State.skipIf_st (c : Bool) : (s.skipIf c).st = s.st := by cases c <;> rfl
@[simp] theorem State.skipIf_disp (c : Bool) : (s.skipIf c).disp = s.disp := by cases c <;> rfl
@[simp] theorem State.skipIf_dirty (c : Bool) : (s.skipIf c).dirty = s.dirty := by cases c <;> rfl
@[simp] theorem State.skipIf_key (c : Bool) : (s.skipIf c).key = s.key := by cases c <;> rfl
@[simp] theorem State.skipIf_mem (c : Bool) : (s.skipIf c).mem = s.mem := by cases c <;> rfl
@[simp] theorem State.skipIf_fatal (c : Bool) : (s.skipIf c).fatal = s.fatal := by cases c <;> rfl
@[simp] theorem State.skipIf_draws (c : Bool) : (s.skipIf c).draws = s.draws := by cases c <;> rfl
@[simp] theorem State.skipIf_getV (c : Bool) (r : Reg) : (s.skipIf c).getV r = s.getV r := by cases c <;> rfl
@[simp] theorem State.skipIf_keyDown (c : Bool) (k : Key) : (s.skipIf c).keyDown k = s.keyDown k := by cases c <;> rfl
@[simp] theorem State.skipIf_readByte (c : Bool) (a : Nat) : (s.skipIf c).readByte a = s.readByte a := by cases c <;> rfl
@[simp] theorem State.skipIf_rndByte (c : Bool) : (s.skipIf c).rndByte = s.rndByte := by cases c <;> rfl

@[simp] theorem State.storeBytes_v (a : Nat) (l : List Byte) : (s.storeBytes a l).v = s.v := rfl
@[simp] theorem State.storeBytes_i (a : Nat) (l : List Byte) : (s.storeBytes a l).i = s.i := rfl
@[simp] theorem State.storeBytes_pc (a : Nat) (l : List Byte) : (s.storeBytes a l).pc = s.pc := rfl
@[simp] theorem State.storeBytes_sp (a : Nat) (l : List Byte) : (s.storeBytes a l).sp = s.sp := rfl
@[simp] theorem State.storeBytes_stack (a : Nat) (l : List Byte) : (s.storeBytes a l).stack = s.stack := rfl
@[simp] theorem State.storeBytes_dt (a : Nat) (l : List Byte) : (s.storeBytes a l).dt = s.dt := rfl
@[simp] theorem State.storeBytes_st (a : Nat) (l : List Byte) : (s.storeBytes a l).st = s.st := rfl
@[simp] theorem State.storeBytes_disp (a : Nat) (l : List Byte) : (s.storeBytes a l).disp = s.disp := rfl
@[simp] theorem State.storeBytes_dirty (a : Nat) (l : List Byte) : (s.storeBytes a l).dirty = s.dirty := rfl
@[simp] theorem State.storeBytes_key (a : Nat) (l : List Byte) : (s.storeBytes a l).key = s.key := rfl
@[simp] theorem State.storeBytes_mem (a : Nat) (l : List Byte) : (s.storeBytes a l).mem = s.mem.writeBytes a l := rfl
@[simp] theorem State.storeBytes_fatal (a : Nat) (l : List Byte) : (s.storeBytes a l).fatal = s.fatal := rfl
@[simp] theorem State.storeBytes_draws (a : Nat) (l : List Byte) : (s.storeBytes a l).draws = s.draws := rfl
@[simp] theorem State.storeBytes_getV (a : Nat) (l : List Byte) (r : Reg) : (s.storeBytes a l).getV r = s.getV r := rfl
@[simp] theorem State.storeBytes_keyDown (a : Nat) (l : List Byte) (k : Key) : (s.storeBytes a l).keyDown k = s.keyDown k := rfl
@[simp] theorem State.storeBytes_rndByte (a : Nat) (l : List Byte) : (s.storeBytes a l).rndByte = s.rndByte := rfl

@[simp] theorem State.setPicture_v (d : Display) : (s.setPicture d).v = s.v := rfl
@[simp] theorem State.setPicture_i (d : Display) : (s.setPicture d).i = s.i := rfl
@[simp] theorem State.setPicture_pc (d : Display) : (s.setPicture d).pc = s.pc := rfl
@[simp] theorem State.setPicture_sp (d : Display) : (s.setPicture d).sp = s.sp := rfl
@[simp] theorem State.setPicture_stack (d : Display) : (s.setPicture d).stack = s.stack := rfl
@[simp] theorem State.setPicture_dt (d : Display) : (s.setPicture d).dt = s.dt := rfl
@[simp] theorem State.setPicture_st (d : Display) : (s.setPicture d).st = s.st := rfl
@[simp] theorem State.setPicture_disp (d : Display) : (s.setPicture d).disp = d := rfl
@[simp] theorem State.setPicture_dirty (d : Display) : (s.setPicture d).dirty = true := rfl
@[simp] theorem State.setPicture_key (d : Display) : (s.setPicture d).key = s.key := rfl
@[simp] theorem State.setPicture_mem (d : Display) : (s.setPicture d).mem = s.mem := rfl
@[simp] theorem State.setPicture_fatal (d : Display) : (s.setPicture d).fatal = s.fatal := rfl
@[simp] theorem State.setPicture_draws (d : Display) : (s.setPicture d).draws = s.draws := rfl
@[simp] theorem State.setPicture_getV (d : Display) (r : Reg) : (s.setPicture d).getV r = s.getV r := rfl
@[simp] theorem State.setPicture_keyDown (d : Display) (k : Key) : (s.setPicture d).keyDown k = s.keyDown k := rfl
@[simp] theorem State.setPicture_readByte (d : Display) (a : Nat) : (s.setPicture d).readByte a = s.readByte a := rfl
@[simp] theorem State.setPicture_rndByte (d : Display) : (s.setPicture d).rndByte = s.rndByte := rfl

@[simp] theorem State.drawn_v : (s.drawn).v = s.v := rfl
@[simp] theorem State.drawn_i : (s.drawn).i = s.i := rfl
@[simp] theorem State.drawn_pc : (s.drawn).pc = s.pc := rfl
@[simp] theorem State.drawn_sp : (s.drawn).sp = s.sp := rfl
@[simp] theorem State.drawn_stack : (s.drawn).stack = s.stack := rfl
@[simp] theorem State.drawn_dt : (s.drawn).dt = s.dt := rfl
@[simp] theorem State.drawn_st : (s.drawn).st = s.st := rfl
@[simp] theorem State.drawn_disp : (s.drawn).disp = s.disp := rfl
@[simp] theorem State.drawn_dirty : (s.drawn).dirty = s.dirty := rfl
@[simp] theorem State.drawn_key : (s.drawn).key = s.key := rfl
@[simp] theorem State.drawn_mem : (s.drawn).mem = s.mem := rfl
@[simp] theorem State.drawn_fatal : (s.drawn).fatal = s.fatal := rfl
@[simp] theorem State.drawn_draws : (s.drawn).draws = s.draws + 1 := rfl
@[simp] theorem State.drawn_getV (r : Reg) : (s.drawn).getV r = s.getV r := rfl
@[simp] theorem State.drawn_keyDown (k : Key) : (s.drawn).keyDown k = s.keyDown k := rfl
@[simp] theorem State.drawn_readByte (a : Nat) : (s.drawn).readByte a = s.readByte a := rfl

@[simp] theorem State.tick_v : (s.tick).v = s.v := rfl
@[simp] theorem State.tick_i : (s.tick).i = s.i := rfl
@[simp] theorem State.tick_pc : (s.tick).pc = s.pc := rfl
@[simp] theorem State.tick_sp : (s.tick).sp = s.sp := rfl
@[simp] theorem State.tick_stack : (s.tick).stack = s.stack := rfl
@[simp] theorem State.tick_dt : (s.tick).dt = tickTimer s.dt := rfl
@[simp] theorem State.tick_st : (s.tick).st = tickTimer s.st := rfl
@[simp] theorem State.tick_disp : (s.tick).disp = s.disp := rfl
@[simp] theorem State.tick_dirty : (s.tick).dirty = s.dirty := rfl
@[simp] theorem State.tick_key : (s.tick).key = s.key := rfl
@[simp] theorem State.tick_mem : (s.tick).mem = s.mem := rfl
@[simp] theorem State.tick_fatal : (s.tick).fatal = s.fatal := rfl
@[simp] theorem State.tick_draws : (s.tick).draws = s.draws := rfl
@[simp] theorem State.tick_getV (r : Reg) : (s.tick).getV r = s.getV r := rfl
@[simp] theorem State.tick_keyDown (k : Key) : (s.tick).keyDown k = s.keyDown k := rfl
@[simp] theorem State.tick_readByte (a : Nat) : (s.tick).readByte a = s.readByte a := rfl
@[simp] theorem State.tick_rndByte : (s.tick).rndByte = s.rndByte := rfl

@[simp] theorem State.enterFatal_v (f : Fault) : (s.enterFatal f).v = s.v := rfl
@[simp] theorem State.enterFatal_i (f : Fault) : (s.enterFatal f).i = s.i := rfl
@[simp] theorem State.enterFatal_pc (f : Fault) : (s.enterFatal f).pc = s.pc := rfl
@[simp] theorem State.enterFatal_sp (f : Fault) : (s.enterFatal f).sp = s.sp := rfl
@[simp] theorem State.enterFatal_stack (f : Fault) : (s.enterFatal f).stack = s.stack := rfl
@[simp] theorem State.enterFatal_dt (f : Fault) : (s.enterFatal f).dt = s.dt := rfl
@[simp] theorem State.enterFatal_st (f : Fault) : (s.enterFatal f).st = s.st := rfl
@[simp] theorem State.enterFatal_disp (f : Fault) : (s.enterFatal f).disp = s.disp := rfl
@[simp] theorem State.enterFatal_dirty (f : Fault) : (s.enterFatal f).dirty = s.dirty := rfl
@[simp] theorem State.enterFatal_key (f : Fault) : (s.enterFatal f).key = s.key := rfl
@[simp] theorem State.enterFatal_mem (f : Fault) : (s.enterFatal f).mem = s.mem := rfl
@[simp] theorem State.enterFatal_fatal (f : Fault) : (s.enterFatal f).fatal = some f := rfl
@[simp] theorem State.enterFatal_draws (f : Fault) : (s.enterFatal f).draws = s.draws := rfl
@[simp] theorem State.enterFatal_getV (f : Fault) (r : Reg) : (s.enterFatal f).getV r = s.getV r := rfl
@[simp] theorem State.enterFatal_keyDown (f : Fault) (k : Key) : (s.enterFatal f).keyDown k = s.keyDown k := rfl
@[simp] theorem State.enterFatal_readByte (f : Fault) (a : Nat) : (s.enterFatal f).readByte a = s.readByte a := rfl
@[simp] theorem State.enterFatal_rndByte (f : Fault) : (s.enterFatal f).rndByte = s.rndByte := rfl

@[simp] theorem State.construct_v (reset : ResetParams) (font : Font) : (State.construct reset font).v = reset.v := rfl
@[simp] theorem State.construct_i (reset : ResetParams) (font : Font) : (State.construct reset font).i = reset.i := rfl
@[simp] theorem State.construct_sp (reset : ResetParams) (font : Font) : (State.construct reset font).sp = reset.sp := rfl
@[simp] theorem State.construct_stack (reset : ResetParams) (font : Font) : (State.construct reset font).stack = reset.stack := rfl
@[simp] theorem State.construct_dt (reset : ResetParams) (font : Font) : (State.construct reset font).dt = reset.dt := rfl
@[simp] theorem State.construct_st (reset : ResetParams) (font : Font) : (State.construct reset font).st = reset.st := rfl
@[simp] theorem State.construct_disp (reset : ResetParams) (font : Font) : (State.construct reset font).disp = reset.disp := rfl
@[simp] theorem State.construct_dirty (reset : ResetParams) (font : Font) : (State.construct reset font).dirty = reset.dirty := rfl
@[simp] theorem State.construct_key (reset : ResetParams) (font : Font) : (State.construct reset font).key = reset.key := rfl
@[simp] theorem State.construct_pc (reset : ResetParams) (font : Font) : (State.construct reset font).pc = resetPc := rfl
@[simp] theorem State.construct_mem (reset : ResetParams) (font : Font) : (State.construct reset font).mem = Memory.initial font := rfl
@[simp] theorem State.construct_fatal (reset : ResetParams) (font : Font) : (State.construct reset font).fatal = none := rfl
@[simp] theorem State.construct_draws (reset : ResetParams) (font : Font) : (State.construct reset font).draws = 0 := rfl

end Sys2Proof.Machine
end

