-- ==== Sys2Proof/Laws/Memory.lean ====
section
/-! SUPPORT. Memory: a read after a write, and the canonical form, which every operation keeps. -/

namespace Sys2Proof.Machine

theorem findCell_putCell_of_ne (d : Byte) (a b : Nat) (v : Byte) (h : b ≠ a) (l : List Host.Cell) :
    findCell (putCell d a v l) b = findCell l b := by
  induction l with
  | nil => by_cases hv : v = d <;> simp [putCell, findCell, hv, Ne.symm h]
  | cons cu rest ih =>
    obtain ⟨c, u⟩ := cu
    simp only [putCell]
    split
    · simp [findCell, ih]
    · split
      · rename_i hc
        subst hc
        by_cases hv : v = d <;> simp [hv, findCell, Ne.symm h]
      · by_cases hv : v = d <;> simp [hv, findCell, Ne.symm h]

theorem findCell_eq_none_of_wf {font : Font} {lo a : Nat} {l : List Host.Cell} (h : cellsWf font lo l = true)
    (ha : a < lo) : findCell l a = none := by
  induction l generalizing lo with
  | nil => rfl
  | cons cu rest ih =>
    obtain ⟨c, u⟩ := cu
    simp only [cellsWf, Bool.and_eq_true, decide_eq_true_eq] at h
    obtain ⟨⟨⟨hlo, -⟩, -⟩, hrest⟩ := h
    rw [findCell, if_neg (by omega)]
    exact ih hrest (by omega)

theorem findCell_putCell_self {font : Font} {lo a : Nat} {d v : Byte} {l : List Host.Cell}
    (h : cellsWf font lo l = true) : (findCell (putCell d a v l) a).getD d = v := by
  induction l generalizing lo with
  | nil => by_cases hv : v = d <;> simp [putCell, findCell, hv]
  | cons cu rest ih =>
    obtain ⟨c, u⟩ := cu
    simp only [cellsWf, Bool.and_eq_true, decide_eq_true_eq] at h
    obtain ⟨-, hrest⟩ := h
    simp only [putCell]
    split
    · rename_i hc
      simpa [findCell, Nat.ne_of_lt hc] using ih hrest
    · split
      · rename_i hc
        subst hc
        by_cases hv : v = d
        · simp [hv, findCell_eq_none_of_wf hrest (Nat.lt_succ_self c)]
        · simp [hv, findCell]
      · rename_i h1 h2
        by_cases hv : v = d
        · simp [hv, findCell, h2, findCell_eq_none_of_wf hrest (show a < c + 1 by omega)]
        · simp [hv, findCell]

theorem cellsWf_mono {font : Font} {lo lo' : Nat} {l : List Host.Cell} (hle : lo' ≤ lo)
    (h : cellsWf font lo l = true) : cellsWf font lo' l = true := by
  cases l with
  | nil => rfl
  | cons cu rest =>
    simp only [cellsWf, Bool.and_eq_true, decide_eq_true_eq] at h ⊢
    exact ⟨⟨⟨by omega, h.1.1.2⟩, h.1.2⟩, h.2⟩

theorem cellsWf_putCell {font : Font} {lo a : Nat} (v : Byte) {l : List Host.Cell} (hlo : lo ≤ a) (ha : a < memSize)
    (h : cellsWf font lo l = true) : cellsWf font lo (putCell (initialByte font a) a v l) = true := by
  induction l generalizing lo with
  | nil => by_cases hv : v = initialByte font a <;> simp [putCell, cellsWf, hv, hlo, ha]
  | cons cu rest ih =>
    obtain ⟨c, u⟩ := cu
    simp only [cellsWf, Bool.and_eq_true, decide_eq_true_eq] at h
    obtain ⟨⟨⟨h1, h2⟩, h3⟩, hrest⟩ := h
    simp only [putCell]
    split
    · simp only [cellsWf, Bool.and_eq_true, decide_eq_true_eq]
      exact ⟨⟨⟨h1, h2⟩, h3⟩, ih (by omega) hrest⟩
    · split
      · rename_i hc
        subst hc
        by_cases hv : v = initialByte font c
        · simpa [hv] using cellsWf_mono (by omega) hrest
        · simp [hv, cellsWf, h1, h2, hrest]
      · by_cases hv : v = initialByte font a
        · simp [hv, cellsWf, h1, h2, hrest]
          simpa using h3
        · have : a + 1 ≤ c := by omega
          simp [hv, cellsWf, hlo, ha, this, h2, hrest]
          simpa using h3

@[simp] theorem Memory.font_write (m : Memory) (a : Nat) (v : Byte) : (m.write a v).font = m.font := by
  simp only [Memory.write]; split <;> rfl

/-- A write leaves every other address alone. -/
theorem Memory.read_write_of_ne (m : Memory) {a b : Nat} (v : Byte) (h : b ≠ a) : (m.write a v).read b = m.read b := by
  simp only [Memory.write]
  split
  · simp [Memory.read, findCell_putCell_of_ne _ _ _ _ h]
  · rfl

/-- A read after a write to the same address gives the byte written. -/
theorem Memory.read_write_self {m : Memory} {a : Nat} (v : Byte) (ha : a < memSize) (h : m.wf = true) :
    (m.write a v).read a = v := by
  simp only [Memory.write, if_pos ha, Memory.read]
  exact findCell_putCell_self h

/-- A write keeps the canonical form. -/
theorem Memory.wf_write {m : Memory} (a : Nat) (v : Byte) (h : m.wf = true) : (m.write a v).wf = true := by
  simp only [Memory.write]
  split
  · rename_i ha
    exact cellsWf_putCell v (Nat.zero_le a) ha h
  · exact h

theorem Memory.wf_initial (font : Font) : (Memory.initial font).wf = true := rfl

@[simp] theorem Memory.font_writeBytes (m : Memory) (a : Nat) (l : List Byte) : (m.writeBytes a l).font = m.font := by
  induction l generalizing m a with
  | nil => rfl
  | cons v rest ih => simp [Memory.writeBytes, ih]

/-- Storing a block keeps the canonical form. -/
theorem Memory.wf_writeBytes {m : Memory} (a : Nat) (l : List Byte) (h : m.wf = true) :
    (m.writeBytes a l).wf = true := by
  induction l generalizing m a with
  | nil => exact h
  | cons v rest ih => exact ih _ (Memory.wf_write a v h)

/-- Storing a block leaves every address outside it alone. -/
theorem Memory.read_writeBytes_outside (m : Memory) (a b : Nat) (l : List Byte) (h : b < a ∨ a + l.length ≤ b) :
    (m.writeBytes a l).read b = m.read b := by
  induction l generalizing m a with
  | nil => rfl
  | cons v rest ih =>
    simp only [List.length_cons] at h
    rw [Memory.writeBytes, ih _ _ (by omega), Memory.read_write_of_ne _ _ (by omega)]

/-- Inside the block, the bytes stored are read back. -/
theorem Memory.read_writeBytes_inside {m : Memory} {a : Nat} {l : List Byte} (hm : m.wf = true)
    (hl : a + l.length ≤ memSize) (k : Nat) (hk : k < l.length) : (m.writeBytes a l).read (a + k) = l[k] := by
  induction l generalizing m a k with
  | nil => exact absurd hk (Nat.not_lt_zero k)
  | cons v rest ih =>
    simp only [List.length_cons] at hl hk
    cases k with
    | zero =>
      rw [Memory.writeBytes, Memory.read_writeBytes_outside _ _ _ _ (by omega)]
      exact Memory.read_write_self v (by omega) hm
    | succ k =>
      rw [Memory.writeBytes, show a + (k + 1) = (a + 1) + k by omega, ih (Memory.wf_write a v hm) (by omega) k (by omega)]
      rfl

end Sys2Proof.Machine
end

