-- ==== Sys2Proof/Laws/Regs.lean ====
section
/-! SUPPORT. Reading V registers after each way of writing them, and the key flags. -/

namespace Sys2Proof.Machine

theorem State.getV_setV (s : State) (x r : Reg) (b : Byte) :
    (s.setV x b).getV r = if r = x then b else s.getV r := by
  simp only [State.getV, State.setV, Vector.getElem_set, Fin.ext_iff, eq_comm]

@[simp] theorem State.getV_setV_self (s : State) (x : Reg) (b : Byte) : (s.setV x b).getV x = b := by
  simp [State.getV_setV]

theorem State.getV_setV_of_ne (s : State) {x r : Reg} (b : Byte) (h : r ≠ x) :
    (s.setV x b).getV r = s.getV r := by
  simp [State.getV_setV, h]

/-- The flag is written last, so it is what VF holds, whatever the destination. -/
theorem State.getV_setResultAndFlag (s : State) (x r : Reg) (b f : Byte) :
    (s.setResultAndFlag x b f).getV r = if r = vf then f else if r = x then b else s.getV r := by
  simp only [State.setResultAndFlag, State.getV_setV]

theorem State.getV_loadV (s : State) (x r : Reg) (f : Nat → Byte) :
    (s.loadV x f).getV r = if r ≤ x then f r.val else s.getV r := by
  simp [State.getV, State.loadV]

@[simp] theorem State.length_firstRegs (s : State) (x : Reg) : (s.firstRegs x).length = x.val + 1 := by
  have := x.isLt
  simp [State.firstRegs]

theorem State.getElem_firstRegs (s : State) (x r : Reg) (h : r ≤ x) :
    (s.firstRegs x)[r.val]'(by simpa using Nat.lt_succ_of_le h) = s.getV r := by
  simp [State.firstRegs, State.getV]

end Sys2Proof.Machine
end

