-- ==== Sys2Proof/Laws/Ops.lean ====
section
/-! SUPPORT. What each shared operation can do, said once: stack, data range, fetch, the rest of a step. -/

namespace Sys2Proof.Machine

/-- A skip changes PC and nothing else. -/
theorem State.skipIf_eq (s : State) (c : Bool) :
    s.skipIf c = s.jump (if c then s.pc + insnBytes + insnBytes else s.pc + insnBytes) := by
  cases c <;> rfl

/-- A push fails exactly on a full stack, and otherwise writes entry SP and raises SP. -/
theorem State.push_cases (s : State) (a : Word) :
    (s.sp.val = 16 ∧ s.push a = none) ∨
    (∃ h : s.sp.val < 16, s.push a =
      some { s with stack := s.stack.set s.sp.val a, sp := ⟨s.sp.val + 1, Nat.succ_lt_succ h⟩ }) := by
  have := s.sp.isLt
  by_cases h : s.sp.val < 16
  · exact .inr ⟨h, by simp [State.push, h]⟩
  · exact .inl ⟨by omega, by simp [State.push, h]⟩

/-- A pop fails exactly on an empty stack, and otherwise lowers SP and reads the entry it then names. -/
theorem State.pop_cases (s : State) :
    (s.sp.val = 0 ∧ s.pop = none) ∨
    (∃ (_ : 0 < s.sp.val) (h' : s.sp.val - 1 < 16), s.pop =
      some (s.stack[s.sp.val - 1], { s with sp := ⟨s.sp.val - 1, Nat.lt_of_lt_of_le h' (by decide)⟩ })) := by
  have := s.sp.isLt
  by_cases h : 0 < s.sp.val
  · exact .inr ⟨h, by omega, by simp [State.pop, h]⟩
  · exact .inl ⟨by omega, by simp [State.pop, h]⟩

theorem firstOutOfRange_eq_none_iff (base count : Nat) :
    firstOutOfRange base count = none ↔ count = 0 ∨ base + count ≤ 4096 := by
  simp only [firstOutOfRange, memSize]
  split <;> simp_all

theorem firstOutOfRange_eq_some_iff (base count a : Nat) :
    firstOutOfRange base count = some a ↔ 0 < count ∧ 4096 < base + count ∧ a = max base 4096 := by
  simp only [firstOutOfRange, memSize]
  split
  · simp; omega
  · simp only [Option.some.injEq]; omega

/-- The address reported is one the instruction forms, is above 0xFFF, and is the least such (20_memory R55). -/
theorem firstOutOfRange_least {base count a : Nat} (h : firstOutOfRange base count = some a) :
    (∃ k, k < count ∧ a = base + k) ∧ 0xFFF < a ∧ ∀ k, k < count → 0xFFF < base + k → a ≤ base + k := by
  rw [firstOutOfRange_eq_some_iff] at h
  obtain ⟨h1, h2, rfl⟩ := h
  exact ⟨⟨max base 4096 - base, by omega, by omega⟩, by omega, by omega⟩

theorem withDataRange_of_inRange {s : State} {count : Nat} (t : State)
    (h : count = 0 ∨ s.i.toNat + count ≤ 4096) : withDataRange s count t = .next t := by
  simp [withDataRange, (firstOutOfRange_eq_none_iff _ _).2 h]

theorem withDataRange_of_outOfRange {s : State} {count : Nat} (t : State) (h0 : 0 < count)
    (h : 4096 < s.i.toNat + count) :
    withDataRange s count t = .fault (.dataAccessOutOfBounds (max s.i.toNat 4096)) := by
  simp [withDataRange, (firstOutOfRange_eq_some_iff _ _ _).2 ⟨h0, h, rfl⟩, raiseFatal]

/-- A body that accesses memory completes exactly when all its addresses exist, with the state given. -/
theorem withDataRange_eq_next_iff {s : State} {count : Nat} {t u : State} :
    withDataRange s count t = .next u ↔ (count = 0 ∨ s.i.toNat + count ≤ 4096) ∧ u = t := by
  by_cases h : count = 0 ∨ s.i.toNat + count ≤ 4096
  · rw [withDataRange_of_inRange t h]; simp [h, eq_comm]
  · rw [withDataRange_of_outOfRange t (by omega) (by omega)]; simp [h]

/-- A body that accesses memory is fatal exactly when some address does not exist. -/
theorem withDataRange_eq_fault_iff {s : State} {count : Nat} {t : State} {f : Fault} :
    withDataRange s count t = .fault f ↔
      (0 < count ∧ 4096 < s.i.toNat + count) ∧ f = .dataAccessOutOfBounds (max s.i.toNat 4096) := by
  by_cases h : count = 0 ∨ s.i.toNat + count ≤ 4096
  · rw [withDataRange_of_inRange t h]; simp; omega
  · rw [withDataRange_of_outOfRange t (by omega) (by omega)]
    simp only [Host.Outcome.fault.injEq, eq_comm (b := f)]
    constructor
    · rintro rfl; exact ⟨by omega, rfl⟩
    · rintro ⟨-, h⟩; exact h

theorem andThen_eq_next_iff {r : Result} {f : State → State} {t : State} :
    andThen r f = .next t ↔ ∃ u, r = .next u ∧ t = f u := by
  cases r <;> simp [andThen, eq_comm]

theorem andThen_eq_fault_iff {r : Result} {f : State → State} {c : Fault} :
    andThen r f = .fault c ↔ r = .fault c := by
  cases r <;> simp [andThen]

/-- Everything fetch and decode can do. -/
theorem fetchInstr_eq_ok_iff {s : State} {i : Instr} :
    fetchInstr s = .ok i ↔ s.pc.toNat + 1 ≤ 0xFFF ∧ decode (wordAtPc s) = some i := by
  simp only [fetchInstr, fetchWord, wordAtPc]
  by_cases h : s.pc.toNat + 1 > 0xFFF
  · simp [h]; omega
  · simp only [h, if_false]
    split <;> simp_all

/-- A step completes exactly when the machine is alive, an instruction is fetched and its body completes. -/
theorem step_eq_next_iff {s t : State} :
    step s = .next t ↔ ∃ i u, NextInstr s i ∧ exec i s = .next u ∧ t = u.tick := by
  simp only [step, cycle, whenAlive, liveCycle, NextInstr]
  cases hf : s.fatal with
  | some c => simp
  | none =>
    cases hi : fetchInstr s with
    | error c =>
      simp only [raiseFatal, reduceCtorEq, false_iff, not_exists]
      rintro i u ⟨⟨-, h⟩, -⟩
      rw [fetchInstr_eq_ok_iff.2 h] at hi
      simp at hi
    | ok i =>
      simp only [andThen_eq_next_iff, true_and]
      constructor
      · rintro ⟨u, hu, rfl⟩
        exact ⟨i, u, fetchInstr_eq_ok_iff.1 hi, hu, rfl⟩
      · rintro ⟨j, u, hj, hu, rfl⟩
        rw [fetchInstr_eq_ok_iff.2 hj] at hi
        cases hi
        exact ⟨u, hu, rfl⟩

theorem tickTimer_toNat (b : Byte) : (tickTimer b).toNat = b.toNat - 1 := by
  simp only [tickTimer]
  split
  · rename_i h; simp [h]
  · bv_omega

end Sys2Proof.Machine
end

