-- ==== Sys2Proof/Laws/Display.lean ====
section
/-! SUPPORT. The display: one cell flipped, and a list of distinct cells XORed in turn. -/

namespace Sys2Proof.Machine

/-- Flipping a cell changes that cell and no other. -/
theorem cell_flipCell (d : Display) (k j : CellIndex) :
    cell (flipCell d k) j = if j = k then !(cell d j) else cell d j := by
  simp only [cell, flipCell, Vector.getElem_set]
  by_cases h : k.val / 64 = j.val / 64
  · simp only [h, if_true, BitVec.getLsbD_xor, BitVec.getLsbD_twoPow]
    by_cases h2 : j = k
    · subst h2
      simp [Nat.mod_lt]
    · rw [if_neg h2]
      have : ¬ (k.val % 64 = j.val % 64) := by
        intro h3
        apply h2
        ext
        omega
      simp [this]
  · rw [if_neg h, if_neg]
    rintro rfl
    exact h rfl

theorem cell_foldl_xorCell (ks : List CellIndex) (acc : Display × Bool) (hk : ks.Nodup) (j : CellIndex) :
    cell (ks.foldl xorCell acc).1 j = if j ∈ ks then !(cell acc.1 j) else cell acc.1 j := by
  induction ks generalizing acc with
  | nil => simp
  | cons k rest ih =>
    obtain ⟨hk1, hk2⟩ := List.nodup_cons.1 hk
    rw [List.foldl_cons, ih _ hk2]
    simp only [xorCell, cell_flipCell, List.mem_cons]
    by_cases h : j = k
    · subst h; simp [hk1]
    · simp [h]

theorem hit_foldl_xorCell (ks : List CellIndex) (acc : Display × Bool) (hk : ks.Nodup) :
    (ks.foldl xorCell acc).2 = (acc.2 || ks.any (cell acc.1)) := by
  induction ks generalizing acc with
  | nil => simp
  | cons k rest ih =>
    obtain ⟨hk1, hk2⟩ := List.nodup_cons.1 hk
    rw [List.foldl_cons, ih _ hk2]
    have : rest.any (cell (flipCell acc.1 k)) = rest.any (cell acc.1) := by
      rw [Bool.eq_iff_iff, List.any_eq_true, List.any_eq_true]
      refine exists_congr fun j => and_congr_right fun hj => ?_
      rw [cell_flipCell, if_neg (by rintro rfl; exact hk1 hj)]
    simp [xorCell, this, Bool.or_assoc]

/-- XORing distinct cells flips each of them and no other. -/
theorem cell_xorCells {ks : List CellIndex} (d : Display) (hk : ks.Nodup) (j : CellIndex) :
    cell (xorCells d ks).1 j = if j ∈ ks then !(cell d j) else cell d j :=
  cell_foldl_xorCell ks (d, false) hk j

/-- A collision is raised exactly when one of the cells was set. -/
theorem hit_xorCells {ks : List CellIndex} (d : Display) (hk : ks.Nodup) : (xorCells d ks).2 = ks.any (cell d) :=
  (hit_foldl_xorCell ks (d, false) hk).trans (Bool.false_or _)

/-- Displays with the same cells are equal. -/
theorem display_ext {d e : Display} (h : ∀ k, cell d k = cell e k) : d = e := by
  ext r hr c hc
  have := h ⟨r * 64 + c, by omega⟩
  simp only [cell] at this
  have h1 : (r * 64 + c) / 64 = r := by omega
  have h2 : (r * 64 + c) % 64 = c := by omega
  simpa only [h1, h2, BitVec.getElem_eq_testBit_toNat, BitVec.getLsbD] using this

/-- Bit k of a sprite row, read as a bit of the byte. -/
theorem spriteBit_eq (b : Byte) {k : Nat} (hk : k < 8) : spriteBit b k = b.getLsbD (7 - k) := by
  revert b
  have : ∀ k < 8, ∀ b : Byte, spriteBit b k = b.getLsbD (7 - k) := by decide +kernel
  exact this k hk

theorem mem_spriteCells {cx cy : Byte} {n : Nat} {row : Nat → Byte} {c : CellIndex} :
    c ∈ spriteCells cx cy n row ↔ ∃ r k, r < n ∧ k < 8 ∧ (row r).getLsbD (7 - k) = true ∧ c = cellAt cx cy r k := by
  simp only [spriteCells, rowCells, List.mem_flatMap, List.mem_range, List.mem_map, List.mem_filter]
  constructor
  · rintro ⟨r, hr, k, ⟨hk, hb⟩, rfl⟩
    exact ⟨r, k, hr, hk, by rwa [spriteBit_eq _ hk] at hb, rfl⟩
  · rintro ⟨r, k, hr, hk, hb, rfl⟩
    exact ⟨r, hr, k, ⟨hk, by rwa [spriteBit_eq _ hk]⟩, rfl⟩

/-- No two set bits of one sprite cover the same cell (45_display R151). -/
theorem nodup_spriteCells (cx cy : Byte) {n : Nat} (hn : n ≤ 15) (row : Nat → Byte) :
    (spriteCells cx cy n row).Nodup := by
  have inj : ∀ r k r' k', r < n → r' < n → k < 8 → k' < 8 → cellAt cx cy r k = cellAt cx cy r' k' →
      r = r' ∧ k = k' := by
    intro r k r' k' hr hr' hk hk' h
    simp only [cellAt, Fin.ofNat, Fin.mk.injEq] at h
    omega
  rw [spriteCells, List.nodup_flatMap]
  constructor
  · intro r hr
    rw [List.mem_range] at hr
    refine List.Nodup.map_on ?_ (List.nodup_range.filter _)
    intro k hk k' hk' h
    rw [List.mem_filter, List.mem_range] at hk hk'
    exact (inj r k r k' hr hr hk.1 hk'.1 h).2
  · refine List.Nodup.pairwise_of_forall_ne List.nodup_range ?_
    intro r hr r' hr' hne c hc hc'
    simp only [rowCells, List.mem_map, List.mem_filter, List.mem_range] at hr hr' hc hc'
    obtain ⟨k, ⟨hk, -⟩, rfl⟩ := hc
    obtain ⟨k', ⟨hk', -⟩, h⟩ := hc'
    exact hne (inj r k r' k' hr hr' hk hk' h.symm).1

end Sys2Proof.Machine
end

