-- ==== Sys2Proof/Laws/Fields.lean ====
section
/-! SUPPORT. The fields of a word as numbers, the masks of the opcode map, and the encoder's words as numbers. -/

namespace Sys2Proof

theorem toNat_fieldOp (w : Word) : (fieldOp w).toNat = w.toNat / 4096 := by
  have := w.isLt
  simp [fieldOp, Nat.shiftRight_eq_div_pow]
  omega

theorem val_fieldX (w : Word) : (fieldX w).val = w.toNat / 256 % 16 := by
  simp [fieldX, Nat.shiftRight_eq_div_pow]

theorem val_fieldY (w : Word) : (fieldY w).val = w.toNat / 16 % 16 := by
  simp [fieldY, Nat.shiftRight_eq_div_pow]

theorem toNat_fieldN (w : Word) : (fieldN w).toNat = w.toNat % 16 := by
  simp [fieldN]

theorem toNat_fieldNn (w : Word) : (fieldNn w).toNat = w.toNat % 256 := by
  simp [fieldNn]

theorem toNat_fieldNnn (w : Word) : (fieldNnn w).toNat = w.toNat % 4096 := by
  simp [fieldNnn]

theorem toNat_wordOfBytes (hi lo : Byte) : (wordOfBytes hi lo).toNat = hi.toNat * 256 + lo.toNat := by
  have := hi.isLt
  have := lo.isLt
  simp [wordOfBytes]
  omega

/-- The mask of formats `NNN`, `XNN` and `XYN`. -/
theorem toNat_and_F000 (w : Word) : (w &&& 0xF000#16).toNat = w.toNat / 4096 * 4096 := by
  have h : w &&& 0xF000#16 = (w >>> 12) <<< 12 := by
    apply BitVec.eq_of_getLsbD_eq
    intro k hk
    interval_cases k <;> simp
  have := w.isLt
  rw [h]
  simp [Nat.shiftRight_eq_div_pow, Nat.shiftLeft_eq]
  omega

/-- The mask of format `XY`. -/
theorem toNat_and_F00F (w : Word) : (w &&& 0xF00F#16).toNat = w.toNat / 4096 * 4096 + w.toNat % 16 := by
  have h : w &&& 0xF00F#16 = ((w >>> 12) <<< 12) + (w &&& 0xF#16) := by
    rw [BitVec.add_eq_or_of_and_eq_zero]
    all_goals
      apply BitVec.eq_of_getLsbD_eq
      intro k hk
      interval_cases k <;> simp
  have h2 : w.toNat &&& 15 = w.toNat % 16 := Nat.and_two_pow_sub_one_eq_mod w.toNat 4
  have := w.isLt
  rw [h]
  simp [Nat.shiftRight_eq_div_pow, Nat.shiftLeft_eq, h2]
  omega

/-- The mask of format `X`. -/
theorem toNat_and_F0FF (w : Word) : (w &&& 0xF0FF#16).toNat = w.toNat / 4096 * 4096 + w.toNat % 256 := by
  have h : w &&& 0xF0FF#16 = ((w >>> 12) <<< 12) + (w &&& 0xFF#16) := by
    rw [BitVec.add_eq_or_of_and_eq_zero]
    all_goals
      apply BitVec.eq_of_getLsbD_eq
      intro k hk
      interval_cases k <;> simp
  have h2 : w.toNat &&& 255 = w.toNat % 256 := Nat.and_two_pow_sub_one_eq_mod w.toNat 8
  have := w.isLt
  rw [h]
  simp [Nat.shiftRight_eq_div_pow, Nat.shiftLeft_eq, h2]
  omega

theorem toNat_packNnn {base : Nat} (h : base + 4095 < 65536) (nnn : Addr) :
    (packNnn base nnn).toNat = base + nnn.toNat := by
  have := nnn.isLt
  simp [packNnn]
  omega

theorem toNat_packXnn {base : Nat} (h : base + 4095 < 65536) (x : Reg) (nn : Byte) :
    (packXnn base x nn).toNat = base + x.val * 256 + nn.toNat := by
  have := x.isLt
  have := nn.isLt
  simp [packXnn]
  omega

theorem toNat_packXy {base : Nat} (h : base + 4080 < 65536) (x y : Reg) :
    (packXy base x y).toNat = base + x.val * 256 + y.val * 16 := by
  have := x.isLt
  have := y.isLt
  simp [packXy]
  omega

theorem toNat_packXyn {base : Nat} (h : base + 4095 < 65536) (x y : Reg) (n : Nibble) :
    (packXyn base x y n).toNat = base + x.val * 256 + y.val * 16 + n.toNat := by
  have := x.isLt
  have := y.isLt
  have := n.isLt
  simp [packXyn]
  omega

theorem toNat_packX {base : Nat} (h : base + 3840 < 65536) (x : Reg) :
    (packX base x).toNat = base + x.val * 256 := by
  have := x.isLt
  simp [packX]
  omega

end Sys2Proof
end

