-- ==== Sys2Proof/Laws/PerInstr.lean ====
section
/-! SUPPORT. Per-instruction laws. Family EncodesItsRow: the row of an instruction is a row of the opcode map, and the
word the encoder gives satisfies it (spec 30_encoding R74, R86). -/

namespace Sys2Proof.Laws.EncodesItsRow

/-- The instruction's row is in the map and its encoding satisfies it. -/
def Statement (i : Instr) : Prop := i.row ∈ opcodeRows ∧ i.row.satisfiedBy (encode i) = true

theorem satisfied_F000 {w : Word} {p : Word} (h : w.toNat / 4096 * 4096 = p.toNat) :
    (OpcodeRow.mk 0xF000#16 p).satisfiedBy w = true := by
  simp only [OpcodeRow.satisfiedBy, beq_iff_eq]
  exact BitVec.eq_of_toNat_eq ((toNat_and_F000 w).trans h)

theorem satisfied_F00F {w : Word} {p : Word} (h : w.toNat / 4096 * 4096 + w.toNat % 16 = p.toNat) :
    (OpcodeRow.mk 0xF00F#16 p).satisfiedBy w = true := by
  simp only [OpcodeRow.satisfiedBy, beq_iff_eq]
  exact BitVec.eq_of_toNat_eq ((toNat_and_F00F w).trans h)

theorem satisfied_F0FF {w : Word} {p : Word} (h : w.toNat / 4096 * 4096 + w.toNat % 256 = p.toNat) :
    (OpcodeRow.mk 0xF0FF#16 p).satisfiedBy w = true := by
  simp only [OpcodeRow.satisfiedBy, beq_iff_eq]
  exact BitVec.eq_of_toNat_eq ((toNat_and_F0FF w).trans h)

theorem cls : Statement .cls := by unfold Statement; decide

theorem ret : Statement .ret := by unfold Statement; decide

theorem jp (nnn : Addr) : Statement (.jp nnn) :=
  ⟨by simp [opcodeRows, sampleInstrs, Instr.row], satisfied_F000 (by rw [encode, toNat_packNnn (by decide)]; simp; omega)⟩

theorem call (nnn : Addr) : Statement (.call nnn) :=
  ⟨by simp [opcodeRows, sampleInstrs, Instr.row], satisfied_F000 (by rw [encode, toNat_packNnn (by decide)]; simp; omega)⟩

theorem seImm (x : Reg) (nn : Byte) : Statement (.seImm x nn) :=
  ⟨by simp [opcodeRows, sampleInstrs, Instr.row], satisfied_F000 (by rw [encode, toNat_packXnn (by decide)]; simp; omega)⟩

theorem sneImm (x : Reg) (nn : Byte) : Statement (.sneImm x nn) :=
  ⟨by simp [opcodeRows, sampleInstrs, Instr.row], satisfied_F000 (by rw [encode, toNat_packXnn (by decide)]; simp; omega)⟩

theorem seReg (x y : Reg) : Statement (.seReg x y) :=
  ⟨by simp [opcodeRows, sampleInstrs, Instr.row], satisfied_F00F (by rw [encode, toNat_packXy (by decide)]; simp; omega)⟩

theorem ldImm (x : Reg) (nn : Byte) : Statement (.ldImm x nn) :=
  ⟨by simp [opcodeRows, sampleInstrs, Instr.row], satisfied_F000 (by rw [encode, toNat_packXnn (by decide)]; simp; omega)⟩

theorem addImm (x : Reg) (nn : Byte) : Statement (.addImm x nn) :=
  ⟨by simp [opcodeRows, sampleInstrs, Instr.row], satisfied_F000 (by rw [encode, toNat_packXnn (by decide)]; simp; omega)⟩

theorem ldReg (x y : Reg) : Statement (.ldReg x y) :=
  ⟨by simp [opcodeRows, sampleInstrs, Instr.row], satisfied_F00F (by rw [encode, toNat_packXy (by decide)]; simp; omega)⟩

theorem orReg (x y : Reg) : Statement (.orReg x y) :=
  ⟨by simp [opcodeRows, sampleInstrs, Instr.row], satisfied_F00F (by rw [encode, toNat_packXy (by decide)]; simp; omega)⟩

theorem andReg (x y : Reg) : Statement (.andReg x y) :=
  ⟨by simp [opcodeRows, sampleInstrs, Instr.row], satisfied_F00F (by rw [encode, toNat_packXy (by decide)]; simp; omega)⟩

theorem xorReg (x y : Reg) : Statement (.xorReg x y) :=
  ⟨by simp [opcodeRows, sampleInstrs, Instr.row], satisfied_F00F (by rw [encode, toNat_packXy (by decide)]; simp; omega)⟩

theorem addReg (x y : Reg) : Statement (.addReg x y) :=
  ⟨by simp [opcodeRows, sampleInstrs, Instr.row], satisfied_F00F (by rw [encode, toNat_packXy (by decide)]; simp; omega)⟩

theorem subReg (x y : Reg) : Statement (.subReg x y) :=
  ⟨by simp [opcodeRows, sampleInstrs, Instr.row], satisfied_F00F (by rw [encode, toNat_packXy (by decide)]; simp; omega)⟩

theorem shr (x : Reg) : Statement (.shr x) :=
  ⟨by simp [opcodeRows, sampleInstrs, Instr.row], satisfied_F00F (by rw [encode, toNat_packX (by decide)]; simp; omega)⟩

theorem subnReg (x y : Reg) : Statement (.subnReg x y) :=
  ⟨by simp [opcodeRows, sampleInstrs, Instr.row], satisfied_F00F (by rw [encode, toNat_packXy (by decide)]; simp; omega)⟩

theorem shl (x : Reg) : Statement (.shl x) :=
  ⟨by simp [opcodeRows, sampleInstrs, Instr.row], satisfied_F00F (by rw [encode, toNat_packX (by decide)]; simp; omega)⟩

theorem sneReg (x y : Reg) : Statement (.sneReg x y) :=
  ⟨by simp [opcodeRows, sampleInstrs, Instr.row], satisfied_F00F (by rw [encode, toNat_packXy (by decide)]; simp; omega)⟩

theorem ldI (nnn : Addr) : Statement (.ldI nnn) :=
  ⟨by simp [opcodeRows, sampleInstrs, Instr.row], satisfied_F000 (by rw [encode, toNat_packNnn (by decide)]; simp; omega)⟩

theorem jpV0 (nnn : Addr) : Statement (.jpV0 nnn) :=
  ⟨by simp [opcodeRows, sampleInstrs, Instr.row], satisfied_F000 (by rw [encode, toNat_packNnn (by decide)]; simp; omega)⟩

theorem rnd (x : Reg) (nn : Byte) : Statement (.rnd x nn) :=
  ⟨by simp [opcodeRows, sampleInstrs, Instr.row], satisfied_F000 (by rw [encode, toNat_packXnn (by decide)]; simp; omega)⟩

theorem drw (x y : Reg) (n : Nibble) : Statement (.drw x y n) :=
  ⟨by simp [opcodeRows, sampleInstrs, Instr.row], satisfied_F000 (by rw [encode, toNat_packXyn (by decide)]; simp; omega)⟩

theorem skp (x : Reg) : Statement (.skp x) :=
  ⟨by simp [opcodeRows, sampleInstrs, Instr.row], satisfied_F0FF (by rw [encode, toNat_packX (by decide)]; simp; omega)⟩

theorem sknp (x : Reg) : Statement (.sknp x) :=
  ⟨by simp [opcodeRows, sampleInstrs, Instr.row], satisfied_F0FF (by rw [encode, toNat_packX (by decide)]; simp; omega)⟩

theorem ldVxDT (x : Reg) : Statement (.ldVxDT x) :=
  ⟨by simp [opcodeRows, sampleInstrs, Instr.row], satisfied_F0FF (by rw [encode, toNat_packX (by decide)]; simp; omega)⟩

theorem ldVxK (x : Reg) : Statement (.ldVxK x) :=
  ⟨by simp [opcodeRows, sampleInstrs, Instr.row], satisfied_F0FF (by rw [encode, toNat_packX (by decide)]; simp; omega)⟩

theorem ldDTVx (x : Reg) : Statement (.ldDTVx x) :=
  ⟨by simp [opcodeRows, sampleInstrs, Instr.row], satisfied_F0FF (by rw [encode, toNat_packX (by decide)]; simp; omega)⟩

theorem ldSTVx (x : Reg) : Statement (.ldSTVx x) :=
  ⟨by simp [opcodeRows, sampleInstrs, Instr.row], satisfied_F0FF (by rw [encode, toNat_packX (by decide)]; simp; omega)⟩

theorem addI (x : Reg) : Statement (.addI x) :=
  ⟨by simp [opcodeRows, sampleInstrs, Instr.row], satisfied_F0FF (by rw [encode, toNat_packX (by decide)]; simp; omega)⟩

theorem ldF (x : Reg) : Statement (.ldF x) :=
  ⟨by simp [opcodeRows, sampleInstrs, Instr.row], satisfied_F0FF (by rw [encode, toNat_packX (by decide)]; simp; omega)⟩

theorem ldB (x : Reg) : Statement (.ldB x) :=
  ⟨by simp [opcodeRows, sampleInstrs, Instr.row], satisfied_F0FF (by rw [encode, toNat_packX (by decide)]; simp; omega)⟩

theorem storeRegs (x : Reg) : Statement (.storeRegs x) :=
  ⟨by simp [opcodeRows, sampleInstrs, Instr.row], satisfied_F0FF (by rw [encode, toNat_packX (by decide)]; simp; omega)⟩

theorem loadRegs (x : Reg) : Statement (.loadRegs x) :=
  ⟨by simp [opcodeRows, sampleInstrs, Instr.row], satisfied_F0FF (by rw [encode, toNat_packX (by decide)]; simp; omega)⟩

end Sys2Proof.Laws.EncodesItsRow
end

