-- ==== Sys2Proof/Tests/Slice0.lean ====
section
/-! SUPPORT. The model's own tests: words from the spec's encoding tables, the spec's vectors (95_test_vectors), and for
each statement with hypotheses a state and operands that meet them. -/

namespace Sys2Proof.Machine.Tests

/-- The machine after reset with one instruction word at 0x200. -/
def at200 (w : Nat) : State := State.reset.withFetchWord 16 w

/-- A result is a next state of which `p` holds. -/
def nextIs (r : Result) (p : State → Bool) : Bool := match r with | .next t => p t | _ => false

/-- A result is this fatal. -/
def faultIs (r : Result) (f : Fault) : Bool := match r with | .fault g => g == f | _ => false

/-- A register set, after reset, with a word at 0x200. -/
def withV (w : Nat) (regs : List (Reg × Byte)) : State := regs.foldl (fun s r => s.setV r.1 r.2) (at200 w)

/-! ### Well-formed words: one ill-formed word for each family of 30_encoding R84 -/

theorem test_wf_refuses_0nnn : wellFormedWord 0x0123#16 = false := by decide
theorem test_wf_refuses_zero_word : wellFormedWord 0x0000#16 = false := by decide
theorem test_wf_refuses_5xyN : wellFormedWord 0x5121#16 = false := by decide
theorem test_wf_refuses_8xyN : wellFormedWord 0x801F#16 = false := by decide
theorem test_wf_refuses_9xyN : wellFormedWord 0x9121#16 = false := by decide
theorem test_wf_refuses_Exnn : wellFormedWord 0xE09F#16 = false := by decide
theorem test_wf_refuses_Fxnn : wellFormedWord 0xF066#16 = false := by decide
theorem test_wf_accepts_ldImm : wellFormedWord 0x6A02#16 = true := by decide

/-! ### Decoding: every constructor from a word written out from 30_encoding R75 to R82 -/

theorem test_decode_cls : decode 0x00E0#16 = some .cls := by decide
theorem test_decode_ret : decode 0x00EE#16 = some .ret := by decide
theorem test_decode_jp : decode 0x1ABC#16 = some (.jp 0xABC#12) := by decide
theorem test_decode_call : decode 0x2F01#16 = some (.call 0xF01#12) := by decide
theorem test_decode_seImm : decode 0x3A7F#16 = some (.seImm 0xA 0x7F#8) := by decide
theorem test_decode_sneImm : decode 0x4B80#16 = some (.sneImm 0xB 0x80#8) := by decide
theorem test_decode_seReg : decode 0x5120#16 = some (.seReg 1 2) := by decide
theorem test_decode_ldImm : decode 0x6A02#16 = some (.ldImm 0xA 2#8) := by decide
theorem test_decode_addImm : decode 0x70FF#16 = some (.addImm 0 0xFF#8) := by decide
theorem test_decode_ldReg : decode 0x8120#16 = some (.ldReg 1 2) := by decide
theorem test_decode_orReg : decode 0x8341#16 = some (.orReg 3 4) := by decide
theorem test_decode_andReg : decode 0x8562#16 = some (.andReg 5 6) := by decide
theorem test_decode_xorReg : decode 0x8783#16 = some (.xorReg 7 8) := by decide
theorem test_decode_addReg : decode 0x89A4#16 = some (.addReg 9 0xA) := by decide
theorem test_decode_subReg : decode 0x8BC5#16 = some (.subReg 0xB 0xC) := by decide
theorem test_decode_shr : decode 0x83F6#16 = some (.shr 3) := by decide
theorem test_decode_subnReg : decode 0x8127#16 = some (.subnReg 1 2) := by decide
theorem test_decode_shl : decode 0x812E#16 = some (.shl 1) := by decide
theorem test_decode_sneReg : decode 0x9DE0#16 = some (.sneReg 0xD 0xE) := by decide
theorem test_decode_ldI : decode 0xA300#16 = some (.ldI 0x300#12) := by decide
theorem test_decode_jpV0 : decode 0xB2F0#16 = some (.jpV0 0x2F0#12) := by decide
theorem test_decode_rnd : decode 0xC43C#16 = some (.rnd 4 0x3C#8) := by decide
theorem test_decode_drw : decode 0xD12F#16 = some (.drw 1 2 0xF#4) := by decide
theorem test_decode_skp : decode 0xE29E#16 = some (.skp 2) := by decide
theorem test_decode_sknp : decode 0xE3A1#16 = some (.sknp 3) := by decide
theorem test_decode_ldVxDT : decode 0xF407#16 = some (.ldVxDT 4) := by decide
theorem test_decode_ldVxK : decode 0xF10A#16 = some (.ldVxK 1) := by decide
theorem test_decode_ldDTVx : decode 0xF515#16 = some (.ldDTVx 5) := by decide
theorem test_decode_ldSTVx : decode 0xF618#16 = some (.ldSTVx 6) := by decide
theorem test_decode_addI : decode 0xF71E#16 = some (.addI 7) := by decide
theorem test_decode_ldF : decode 0xF829#16 = some (.ldF 8) := by decide
theorem test_decode_ldB : decode 0xF933#16 = some (.ldB 9) := by decide
theorem test_decode_storeRegs : decode 0xF255#16 = some (.storeRegs 2) := by decide
theorem test_decode_loadRegs : decode 0xF365#16 = some (.loadRegs 3) := by decide
theorem test_decode_bytes_truncated : decodeBytes [0x6A#8] = .error .truncated := by decide
theorem test_decode_bytes_illegal : decodeBytes [0x51#8, 0x21#8] = .error (.illegalWord 0x5121#16) := by decide
theorem test_decode_table_word : decodeTableWord 16 0x6A02 = some (.ldImm 0xA 2#8) := by decide
theorem test_encode_shr : encode (.shr 3) = 0x8306#16 := by decide

/-! ### One step each, from 95_test_vectors part 2 (the vector's number stands in the name) -/

theorem test_cls_D2 : nextIs (step (at200 0x00E0)) (fun t => t.dirty && t.pc == 0x202#16) = true := by decide
theorem test_ret_F8 : nextIs (step { at200 0x00EE with sp := 1, stack := (at200 0).stack.set 0 0x204#16 })
    (fun t => t.pc == 0x206#16 && t.sp == 0) = true := by decide
theorem test_ret_F7 : faultIs (step (at200 0x00EE)) (.stackUnderflow 0x200#16) = true := by decide
theorem test_jp_F1 : nextIs (step (at200 0x1ABC)) (fun t => t.pc == 0xABC#16) = true := by decide
theorem test_call_F5 : nextIs (step { at200 0x2ABC with sp := 15 })
    (fun t => t.pc == 0xABC#16 && t.sp == 16 && t.stack[15] == 0x200#16) = true := by decide
theorem test_call_F6 : faultIs (step { at200 0x2ABC with sp := 16 }) (.stackOverflow 0x200#16) = true := by decide
theorem test_seImm_K1 : nextIs (step (withV 0x3011 [(0, 0x11#8)])) (fun t => t.pc == 0x204#16) = true := by decide
theorem test_seImm_K2 : nextIs (step (withV 0x3011 [(0, 0x10#8)])) (fun t => t.pc == 0x202#16) = true := by decide
theorem test_sneImm_K4 : nextIs (step (withV 0x4011 [(0, 0x10#8)])) (fun t => t.pc == 0x204#16) = true := by decide
theorem test_seReg_K5 : nextIs (step (withV 0x5120 [(1, 4#8), (2, 4#8)])) (fun t => t.pc == 0x204#16) = true := by decide
theorem test_sneReg_K8 : nextIs (step (withV 0x9120 [(1, 4#8), (2, 4#8)])) (fun t => t.pc == 0x202#16) = true := by decide
theorem test_ldImm_E7 : nextIs (step (at200 0x6A02)) (fun t => t.getV 0xA == 2#8 && t.pc == 0x202#16) = true := by decide
theorem test_addImm_A4 : nextIs (step (withV 0x7001 [(0, 0xFF#8), (15, 5#8)]))
    (fun t => t.getV 0 == 0#8 && t.getV 15 == 5#8) = true := by decide
theorem test_ldReg_A7 : nextIs (step (withV 0x8010 [(0, 1#8), (1, 0xAB#8), (15, 7#8)]))
    (fun t => t.getV 0 == 0xAB#8 && t.getV 15 == 7#8) = true := by decide
theorem test_orReg_A8 : nextIs (step (withV 0x8011 [(0, 0xF0#8), (1, 0x0F#8), (15, 7#8)]))
    (fun t => t.getV 0 == 0xFF#8 && t.getV 15 == 7#8) = true := by decide
theorem test_andReg_A9 : nextIs (step (withV 0x8012 [(0, 0xF0#8), (1, 0x3C#8)])) (fun t => t.getV 0 == 0x30#8) = true := by
  decide
theorem test_xorReg_A10 : nextIs (step (withV 0x8013 [(0, 0xF0#8), (1, 0x3C#8)])) (fun t => t.getV 0 == 0xCC#8) = true := by
  decide
theorem test_addReg_E2 : nextIs (step (withV 0x8014 [(0, 7#8), (1, 0xFF#8)]))
    (fun t => t.getV 0 == 6#8 && t.getV 15 == 1#8) = true := by decide
theorem test_addReg_A32 : nextIs (step (withV 0x8F14 [(15, 0xF0#8), (1, 0x20#8)])) (fun t => t.getV 15 == 1#8) = true := by
  decide
theorem test_subReg_E3 : nextIs (step (withV 0x8015 [(0, 3#8), (1, 5#8)]))
    (fun t => t.getV 0 == 254#8 && t.getV 15 == 0#8) = true := by decide
theorem test_subReg_A16 : nextIs (step (withV 0x8015 [(0, 5#8), (1, 5#8)]))
    (fun t => t.getV 0 == 0#8 && t.getV 15 == 1#8) = true := by decide
theorem test_shr_A26 : nextIs (step (withV 0x80A6 [(0, 5#8), (10, 0xF0#8)]))
    (fun t => t.getV 0 == 2#8 && t.getV 15 == 1#8 && t.getV 10 == 0xF0#8) = true := by decide
theorem test_subnReg_A20 : nextIs (step (withV 0x8017 [(0, 5#8), (1, 3#8)]))
    (fun t => t.getV 0 == 0xFE#8 && t.getV 15 == 0#8) = true := by decide
theorem test_shl_A27 : nextIs (step (withV 0x801E [(0, 0x81#8)]))
    (fun t => t.getV 0 == 0x02#8 && t.getV 15 == 0x80#8) = true := by decide
theorem test_shl_A38 : nextIs (step (withV 0x8FFE [(15, 0xC1#8)])) (fun t => t.getV 15 == 0x80#8) = true := by decide
theorem test_ldI_M2 : nextIs (step (at200 0xAFFF)) (fun t => t.i == 0xFFF#16) = true := by decide
theorem test_jpV0_F11 : nextIs (step (withV 0xBFFF [(0, 0xFF#8)])) (fun t => t.pc == 0x10FE#16) = true := by decide
theorem test_rnd_A42 : nextIs (step (withV 0xC000 [(0, 9#8)])) (fun t => t.draws == 1 && t.pc == 0x202#16) = true := by decide
theorem test_rnd_mask_A41 : (0xB7#8 &&& 0x3C#8) = 0x34#8 := by decide
theorem test_drw_D4 : nextIs (step { withV 0xD011 [(0, 255#8), (1, 255#8)] with
      i := 0x300, mem := (at200 0xD011).mem.write 0x300 0xF0#8 })
    (fun t => t.disp == ((Vector.replicate 32 0#64).set 2 (1#64 <<< 63)).set 3 7#64 && t.getV 15 == 0#8 && t.dirty) = true := by
  decide
theorem test_drw_D6 : nextIs (step { at200 0xD011 with
      i := 0x300, mem := (at200 0xD011).mem.write 0x300 0xC0#8, disp := flipCell (at200 0).disp 1 })
    (fun t => cell t.disp 0 && !cell t.disp 1 && t.getV 15 == 1#8) = true := by decide
theorem test_skp_T3 : nextIs (step { withV 0xE09E [(0, 0x13#8)] with key := (at200 0).key.set 3 true })
    (fun t => t.pc == 0x204#16) = true := by decide
theorem test_sknp_T5 : nextIs (step (withV 0xE0A1 [(0, 3#8)])) (fun t => t.pc == 0x204#16) = true := by decide
theorem test_ldVxDT_T7 : nextIs (step { at200 0xF007 with dt := 9 }) (fun t => t.getV 0 == 9#8 && t.dt == 8#8) = true := by
  decide
theorem test_ldVxK_T15 : nextIs (step { at200 0xF00A with key := ((at200 0).key.set 3 true).set 7 true })
    (fun t => t.getV 0 == 3#8 && t.pc == 0x202#16) = true := by decide
theorem test_ldVxK_T14 : nextIs (step { at200 0xF00A with dt := 5 }) (fun t => t.pc == 0x200#16 && t.dt == 4#8) = true := by
  decide
theorem test_ldDTVx_T11 : nextIs (step (withV 0xF015 [(0, 0xFF#8)])) (fun t => t.dt == 254#8) = true := by decide
theorem test_ldSTVx_T13 : nextIs (step (withV 0xF018 [(0, 1#8)])) (fun t => t.st == 0#8) = true := by decide
theorem test_addI_M5 : nextIs (step { withV 0xF01E [(0, 0xFF#8)] with i := 0xF01 })
    (fun t => t.i == 0#16 && t.getV 15 == 1#8 && t.st == 254#8) = true := by decide
theorem test_addI_M8 : nextIs (step { withV 0xFF1E [(15, 9#8)] with i := 0xFFA })
    (fun t => t.i == 3#16 && t.getV 15 == 1#8 && t.st == 8#8) = true := by decide
theorem test_ldF_M10 : nextIs (step (withV 0xF029 [(0, 0xAB#8)])) (fun t => t.i == 0x087#16) = true := by decide
theorem test_ldB_M15 : nextIs (step { withV 0xF033 [(0, 255#8)] with i := 0xFFD })
    (fun t => t.readByte 0xFFD == 2#8 && t.readByte 0xFFE == 5#8 && t.readByte 0xFFF == 5#8) = true := by decide
theorem test_ldB_M16 : faultIs (step { withV 0xF033 [(0, 255#8)] with i := 0xFFE }) (.dataAccessOutOfBounds 0x1000) = true := by
  decide
theorem test_storeRegs_M17 : nextIs (step { withV 0xF255 [(0, 1#8), (1, 2#8), (2, 3#8)] with i := 0xFFD })
    (fun t => t.readByte 0xFFD == 1#8 && t.readByte 0xFFF == 3#8 && t.i == 0xFFD#16) = true := by decide
theorem test_storeRegs_M25 : nextIs (step { withV 0xF055 [(0, 0xAA#8)] with i := 0x050 })
    (fun t => t.readByte 0x050 == 0xAA#8 && t.readByte 0x051 == 0x90#8) = true := by decide
theorem test_loadRegs_M21 : nextIs (step { at200 0xF165 with i := 0x050 })
    (fun t => t.getV 0 == 0xF0#8 && t.getV 1 == 0x90#8 && t.getV 2 == 0#8) = true := by decide
theorem test_loadRegs_M23 : faultIs (step { at200 0xF165 with i := 0xFFF }) (.dataAccessOutOfBounds 0x1000) = true := by decide
theorem test_fetch_S3 : faultIs (step { at200 0x6A02 with pc := 0xFFF }) (.fetchOutOfBounds 0xFFF#16) = true := by decide
theorem test_illegal_S8 : faultIs (step State.reset) (.illegalInstruction 0#16) = true := by decide
theorem test_write_of_the_reset_byte_is_no_entry : (State.reset.mem.write 0x050 0xF0#8).cells = [] := by decide

/-! ### Witnesses: for each statement with hypotheses, a state and operands that meet them, each clause at a boundary -/

theorem witness_word_has_one_field_layout : decode 0xDABF#16 = some (.drw 0xA 0xB 0xF#4) := by decide
theorem witness_row_is_satisfied :
    (Instr.shl 0xF).row ∈ opcodeRows ∧ (Instr.shl 0xF).row.satisfiedBy 0x8FFE#16 = true := by decide

/-! Step, fetch, tick, fatals -/

theorem witness_step_runs_a_body : ∃ u, NextInstr (at200 0x00E0) .cls ∧ exec .cls (at200 0x00E0) = .next u :=
  ⟨_, by unfold NextInstr; decide, rfl⟩
theorem witness_step_runs_a_fatal_body :
    ∃ f, NextInstr (at200 0x00EE) .ret ∧ exec .ret (at200 0x00EE) = .fault f := ⟨_, by unfold NextInstr; decide, rfl⟩
theorem witness_fetch_past_the_end : ({ State.reset with pc := 0xFFF } : State).fatal = none ∧
    ({ State.reset with pc := 0xFFF } : State).pc.toNat + 1 > 0xFFF := by decide
theorem witness_fetch_at_the_end : ({ State.reset with pc := 0xFFE } : State).fatal = none ∧
    ({ State.reset with pc := 0xFFE } : State).pc.toNat + 1 ≤ 0xFFF := by decide
theorem witness_illegal_word : State.reset.fatal = none ∧ State.reset.pc.toNat + 1 ≤ 0xFFF ∧
    decode (wordAtPc State.reset) = none := by decide
theorem witness_tick_delay_timer : ∃ u, NextInstr (withV 0xF015 [(0, 1#8)]) (.ldDTVx 0) ∧
    exec (.ldDTVx 0) (withV 0xF015 [(0, 1#8)]) = .next u := ⟨_, by unfold NextInstr; decide, rfl⟩
theorem witness_tick_sound_timer : ∃ u, NextInstr (withV 0xF018 [(0, 0#8)]) (.ldSTVx 0) ∧
    exec (.ldSTVx 0) (withV 0xF018 [(0, 0#8)]) = .next u := ⟨_, by unfold NextInstr; decide, rfl⟩
theorem witness_tick_add_to_index : ∃ u, NextInstr (withV 0xFF1E [(15, 9#8)]) (.addI 15) ∧
    exec (.addI 15) (withV 0xFF1E [(15, 9#8)]) = .next u := ⟨_, by unfold NextInstr; decide, rfl⟩
theorem witness_tick_read_delay_timer : ∃ u, NextInstr { at200 0xF007 with dt := 1 } (.ldVxDT 0) ∧
    exec (.ldVxDT 0) { at200 0xF007 with dt := 1 } = .next u := ⟨_, by unfold NextInstr; decide, rfl⟩
theorem witness_tick_other : ∃ u, NextInstr { at200 0x6A02 with dt := 1 } (.ldImm 0xA 2) ∧
    exec (.ldImm 0xA 2) { at200 0x6A02 with dt := 1 } = .next u ∧ writesDT (.ldImm 0xA 2) = false ∧
    writesST (.ldImm 0xA 2) = false := ⟨_, by unfold NextInstr; decide, rfl, rfl, rfl⟩
theorem witness_fatal_step : ∃ f, step State.reset = .fault f := ⟨_, rfl⟩
theorem witness_dead_machine :
    ({ State.reset with fatal := some (.stackOverflow 0x200#16) } : State).fatal = some (.stackOverflow 0x200#16) := rfl

/-! Invariants and frames -/

theorem witness_reset_in_bounds : ({ defaultReset with i := 0xFFF, stack := resetStack.set 0 0xFFE } : ResetParams).InBounds := by
  unfold ResetParams.InBounds; decide
theorem inv_reset : Inv State.reset := ⟨by decide, by decide, by decide, by decide⟩
theorem inv_at200_ldImm : Inv (at200 0x6A02) := ⟨by decide, by decide, by decide, by decide⟩
theorem inv_at200_jpV0 : Inv (withV 0xBFFF [(0, 0xFF#8)]) := ⟨by decide, by decide, by decide, by decide⟩
theorem witness_step_keeps_the_invariant : ∃ t, Inv (withV 0xBFFF [(0, 0xFF#8)]) ∧
    step (withV 0xBFFF [(0, 0xFF#8)]) = .next t := ⟨_, inv_at200_jpV0, rfl⟩
theorem witness_load_keeps_the_invariant : ∃ t, Inv State.reset ∧ loadImage [0x12#8, 0x00#8] State.reset = .next (.ok, t) :=
  ⟨_, inv_reset, rfl⟩
theorem witness_set_key_keeps_the_invariant : ∃ t, Inv State.reset ∧ setKey 15 true State.reset = .next t :=
  ⟨_, inv_reset, rfl⟩
theorem witness_consume_keeps_the_invariant : ∃ t, Inv State.reset ∧ consumeFrame State.reset = .next (none, t) :=
  ⟨_, inv_reset, rfl⟩
theorem witness_keys_exec : ∃ t, exec (.ldVxK 0) { State.reset with key := State.reset.key.set 15 true } = .next t := ⟨_, rfl⟩
theorem witness_keys_run : ∃ t, Host.Core.run Sys2Proof.core 1 (at200 0x1200) = .next t := ⟨_, rfl⟩
theorem witness_keys_alive : State.reset.fatal = none := rfl
theorem witness_index_kept : ∃ t, exec (.loadRegs 15) State.reset = .next t ∧ writesIndex (.loadRegs 15) = false := ⟨_, rfl, rfl⟩
theorem witness_memory_kept : ∃ t, exec (.loadRegs 15) State.reset = .next t ∧ storesToMemory (.loadRegs 15) = false :=
  ⟨_, rfl, rfl⟩
theorem witness_dirty_set : ∃ t, exec (.drw 0 1 0) State.reset = .next t ∧ writesPicture (.drw 0 1 0) = true := ⟨_, rfl, rfl⟩
theorem witness_dirty_kept : ∃ t, exec (.ldB 0) State.reset = .next t ∧ writesPicture (.ldB 0) = false := ⟨_, rfl, rfl⟩
theorem witness_dirty_consumed : ∃ f t, consumeFrame { State.reset with dirty := true } = .next (f, t) := ⟨_, _, rfl⟩
theorem witness_dirty_clean : ∃ f t, consumeFrame State.reset = .next (f, t) ∧ State.reset.dirty = false := ⟨_, _, rfl, rfl⟩
theorem witness_dirty_load : ∃ r t, loadImage [] { State.reset with dirty := true } = .next (r, t) := ⟨_, _, rfl⟩
theorem witness_dirty_set_key : ∃ t, setKey 0 true { State.reset with dirty := true } = .next t := ⟨_, rfl⟩
theorem witness_random_not_drawn : drawsRandom (.ldImm 0 0) = false := rfl
theorem witness_stack_kept : ∃ t, exec (.jp 0xFFF) State.reset = .next t ∧ usesStack (.jp 0xFFF) = false := ⟨_, rfl, rfl⟩
theorem witness_register_kept : ∃ t, exec (.addReg 14 0) State.reset = .next t ∧ writesReg 13 (.addReg 14 0) = false :=
  ⟨_, rfl, rfl⟩
theorem witness_timers_kept : ∃ t, exec (.ldVxDT 0) State.reset = .next t ∧ writesDT (.ldVxDT 0) = false ∧
    writesST (.ldVxDT 0) = false ∧ drawsRandom (.ldVxDT 0) = false := ⟨_, rfl, rfl, rfl, rfl⟩

/-! The next PC, one witness for each clause, at the last address that fetches -/

/-- After reset with PC at 0xFFE. -/
def atTop : State := { State.reset with pc := 0xFFE }

theorem witness_pc_advance : ∃ t, atTop.pc.toNat ≤ 0xFFE ∧ exec .cls atTop = .next t ∧ alwaysAdvances .cls = true :=
  ⟨_, by decide, rfl, rfl⟩
theorem witness_pc_jp : ∃ t, atTop.pc.toNat ≤ 0xFFE ∧ exec (.jp 0xFFF) atTop = .next t := ⟨_, by decide, rfl⟩
theorem witness_pc_call : ∃ t, atTop.pc.toNat ≤ 0xFFE ∧ exec (.call 0xFFF) atTop = .next t := ⟨_, by decide, rfl⟩
theorem witness_pc_jpV0 : ∃ t, (atTop.setV 0 0xFF).pc.toNat ≤ 0xFFE ∧ exec (.jpV0 0xFFF) (atTop.setV 0 0xFF) = .next t :=
  ⟨_, by decide, rfl⟩
theorem witness_pc_ret : ∃ t, exec .ret { atTop with sp := 16 } = .next t ∧ ({ atTop with sp := 16 } : State).sp.val - 1 < 16 :=
  ⟨_, rfl, by decide⟩
theorem witness_pc_skips : ∃ a b c d e f t, exec (.seImm 0 0) atTop = .next a ∧ exec (.sneImm 0 1) atTop = .next b ∧
    exec (.seReg 0 1) atTop = .next c ∧ exec (.sneReg 0 1) atTop = .next d ∧ exec (.skp 0) atTop = .next e ∧
    exec (.sknp 0) atTop = .next f ∧ exec (.ldVxK 0) atTop = .next t := ⟨_, _, _, _, _, _, _, rfl, rfl, rfl, rfl, rfl, rfl, rfl⟩

/-! Fatals of the bodies, reset, memory, the host's operations -/

theorem witness_body_data_fatal : Inv { State.reset with i := 0xFFF } ∧
    exec (.ldB 0) { State.reset with i := 0xFFF } = .fault (.dataAccessOutOfBounds 0x1000) :=
  ⟨⟨by decide, by decide, by decide, by decide⟩, rfl⟩
theorem witness_full_stack : NextInstr { at200 0x2ABC with sp := 16 } (.call 0xABC) ∧
    ({ at200 0x2ABC with sp := 16 } : State).sp.val = 16 := ⟨by unfold NextInstr; decide, by decide⟩
theorem witness_empty_stack : NextInstr (at200 0x00EE) .ret ∧ (at200 0x00EE).sp.val = 0 := ⟨by unfold NextInstr; decide, by decide⟩
theorem witness_unwritten : ∀ w ∈ [(0x04F, 1#8), (0x051, 2#8), (0x050 + 4096, 3#8)], w.1 ≠ 0x050 := by decide
theorem witness_zero_word : State.reset.fatal = none ∧ State.reset.pc.toNat + 1 ≤ 0xFFF ∧
    State.reset.readByte State.reset.pc.toNat = 0 ∧ State.reset.readByte (State.reset.pc.toNat + 1) = 0 := by decide
theorem witness_canonical : State.reset.mem.wf = true ∧ ((State.reset.mem.write 0x300 1).write 0x300 0).wf = true ∧
    State.reset.mem.font = ((State.reset.mem.write 0x300 1).write 0x300 0).font := by decide
theorem witness_reset_state : State.reset = State.construct defaultReset defaultFont := rfl
theorem witness_stored_byte_fetched_high : ∃ t, 0 < (storedBytes (.storeRegs 0) State.reset).length ∧
    State.reset.mem.wf = true ∧ exec (.storeRegs 0) State.reset = .next t ∧ ({ t with pc := 0 } : State).mem = t.mem ∧
    ({ t with pc := 0 } : State).pc.toNat + 1 ≤ 0xFFF ∧ ({ t with pc := 0 } : State).pc.toNat = State.reset.i.toNat + 0 :=
  ⟨_, by decide, by decide, rfl, rfl, by decide, by decide⟩
theorem witness_stored_byte_fetched_low : ∃ t, 2 < (storedBytes (.ldB 0) { State.reset with i := 0xFFD }).length ∧
    State.reset.mem.wf = true ∧ exec (.ldB 0) { State.reset with i := 0xFFD } = .next t ∧
    ({ t with pc := 0xFFE } : State).mem = t.mem ∧ ({ t with pc := 0xFFE } : State).pc.toNat + 1 ≤ 0xFFF ∧
    ({ t with pc := 0xFFE } : State).pc.toNat + 1 = ({ State.reset with i := 0xFFD } : State).i.toNat + 2 :=
  ⟨_, by decide, by decide, rfl, rfl, by decide, by decide⟩
theorem witness_load : State.reset.fatal = none ∧ (List.replicate 3583 0#8).length < 3584 ∧ State.reset.mem.wf = true :=
  ⟨rfl, Nat.lt_of_le_of_lt (Nat.le_of_eq List.length_replicate) (by decide), by decide⟩
theorem witness_load_oversized : State.reset.fatal = none ∧ (List.replicate 3584 0#8).length ≥ 3584 :=
  ⟨rfl, Nat.le_of_eq List.length_replicate.symm⟩
theorem witness_set_key_run : ∃ u, (at200 0x1200).fatal = none ∧
    Host.Core.run Sys2Proof.core 1 { at200 0x1200 with key := (at200 0x1200).key.set 15 true } = .next u := ⟨_, rfl, rfl⟩
theorem witness_set_key_beyond : State.reset.fatal = none ∧ 16 ≥ 16 := by decide
theorem witness_consume_dirty : ({ State.reset with dirty := true } : State).fatal = none ∧
    ({ State.reset with dirty := true } : State).dirty = true := ⟨rfl, rfl⟩
theorem witness_consume_clean : State.reset.fatal = none ∧ State.reset.dirty = false := ⟨rfl, rfl⟩
theorem witness_sound : NextInstr (withV 0xF018 [(0, 2#8)]) (.ldSTVx 0) ∧ NextInstr (withV 0xF018 [(0, 1#8)]) (.ldSTVx 0) :=
  ⟨by unfold NextInstr; decide, by unfold NextInstr; decide⟩

/-! Control transfer -/

theorem witness_call : State.reset.sp.val < 16 ∧ ({ State.reset with sp := 15 } : State).sp.val < 16 := by decide
theorem witness_ret : 0 < ({ State.reset with sp := 1 } : State).sp.val ∧ ({ State.reset with sp := 1 } : State).sp.val - 1 < 16 ∧
    (State.reset.stack[0]).toNat ≤ 0xFFE := by decide
theorem witness_ret_full : 0 < ({ State.reset with sp := 16 } : State).sp.val ∧
    ({ State.reset with sp := 16 } : State).sp.val - 1 < 16 := by decide
theorem witness_round_trip : ∃ t : State, State.reset.sp.val < 16 ∧ exec (.call 0x300) State.reset = .next t ∧
    ({ t with pc := 0x300 } : State).sp = t.sp ∧
    ∀ k : Fin 16, k.val < t.sp.val → ({ t with pc := 0x300 } : State).stack[k.val] = t.stack[k.val] :=
  ⟨_, by decide, rfl, rfl, fun _ _ => rfl⟩
theorem witness_skip_seImm : atTop.pc.toNat ≤ 0xFFE ∧ atTop.getV 0 = 0 ∧ atTop.getV 0 ≠ 1 ∧ atTop.fatal = none := by decide
theorem witness_skip_registers : (atTop.setV 1 5).pc.toNat = 0xFFE ∧ (atTop.setV 1 5).getV 0 = (atTop.setV 1 5).getV 2 ∧
    (atTop.setV 1 5).getV 0 ≠ (atTop.setV 1 5).getV 1 := by decide

/-! Arithmetic, index, memory -/

theorem witness_arithmetic : (14 : Reg) ≠ vf := by decide
theorem witness_add_to_index : NextInstr { withV 0xFF1E [(15, 0xFF#8)] with i := 0xFFF } (.addI 15) := by unfold NextInstr; decide
theorem witness_random_mask : (0x7F#8).getLsbD 7 = false := by decide
theorem witness_bcd : ({ State.reset with i := 0xFFD } : State).i.toNat + 2 ≤ 0xFFF ∧ State.reset.mem.wf = true := by decide
theorem witness_bulk : ({ State.reset with i := 0xFF0 } : State).i.toNat + (15 : Reg).val ≤ 0xFFF ∧
    ({ State.reset with i := 0xFFF } : State).i.toNat + (0 : Reg).val ≤ 0xFFF ∧ State.reset.mem.wf = true := by decide

/-! Display -/

theorem witness_draw_range : (0 : Nibble).toNat = 0 ∧
    ({ State.reset with i := 0xFFF } : State).i.toNat + ((1 : Nibble).toNat - 1) ≤ 0xFFF ∧
    ({ State.reset with i := 0xFF1 } : State).i.toNat + ((15 : Nibble).toNat - 1) ≤ 0xFFF := by decide

/-- A one-row sprite 0x80 at 0x300, drawn at (0, 0), over a display whose cell 0 is `b`. -/
def oneCell (b : Bool) : State := { at200 0xD011 with
  i := 0x300, mem := (at200 0xD011).mem.write 0x300 0x80#8,
  disp := if b then flipCell blankDisplay 0 else blankDisplay }

theorem oneCell_range (b : Bool) : (oneCell b).i.toNat + ((1 : Nibble).toNat - 1) ≤ 0xFFF := by cases b <;> decide
theorem witness_draw_covered (b : Bool) : covers (oneCell b) 0 1 1 0 := by
  refine ⟨0, 0, by decide, by decide, ?_, ?_⟩ <;> cases b <;> decide
theorem witness_draw_uncovered : ¬ covers (oneCell true) 0 1 0 0 := fun ⟨_, _, h, _⟩ => absurd h (Nat.not_lt_zero _)
theorem witness_draw_collides : ∃ c, covers (oneCell true) 0 1 1 c ∧ cell (oneCell true).disp c = true :=
  ⟨0, witness_draw_covered true, by decide⟩
theorem cell_blank (c : CellIndex) : cell blankDisplay c = false := by simp [cell, blankDisplay]
theorem witness_draw_free : ∀ c, covers (oneCell false) 0 1 1 c → cell (oneCell false).disp c = false := fun c _ => cell_blank c
theorem witness_draw_twice : (0 : Reg) ≠ vf ∧ (1 : Reg) ≠ vf ∧ ((1 : Nibble).toNat = 0 ∨
    (oneCell true).i.toNat + ((1 : Nibble).toNat - 1) ≤ 0xFFF) := ⟨by decide, by decide, .inr (oneCell_range true)⟩

/-! Keys and timers -/

theorem witness_key_skip : (15 : Key).val = ((State.reset.setV 0 0xFF).getV 0).toNat % 16 := by decide
theorem witness_wait_least : ({ State.reset with key := (State.reset.key.set 3 true).set 15 true } : State).keyDown 3 = true ∧
    ∀ j, j < 3 → ({ State.reset with key := (State.reset.key.set 3 true).set 15 true } : State).keyDown j = false := by decide
theorem witness_wait_none : (∀ k, (at200 0xF00A).keyDown k = false) ∧ NextInstr (at200 0xF00A) (.ldVxK 0) :=
  ⟨by decide, by unfold NextInstr; decide⟩
theorem witness_timers_decay : ∃ t, RunsWithout writesDT 1 { at200 0x1200 with dt := 1 } t ∧
    RunsWithout writesST 1 { at200 0x1200 with dt := 1 } t :=
  ⟨_, ⟨.jp 0x200, _, by unfold NextInstr; decide, rfl, rfl, rfl⟩, ⟨.jp 0x200, _, by unfold NextInstr; decide, rfl, rfl, rfl⟩⟩
theorem witness_idle : NextInstr (at200 0x1200) (.jp 0x200) ∧ (0x200#12).toNat = (at200 0x1200).pc.toNat ∧
    (at200 0x1200).dt = 0 ∧ (at200 0x1200).st = 0 := ⟨by unfold NextInstr; decide, by decide, by decide, by decide⟩

end Sys2Proof.Machine.Tests
end

/-! SUPPORT. Proofs for the statements of the state (spec 10_state): what a completed body may change, said once, and
what each host operation answers; every frame statement follows from these. -/

namespace Sys2Proof.Machine

/-! ### The changes a body is made of -/

/-- One change of the state that the body of `i` may make: a register, I, a timer, the stack, memory, the display or
the draw counter only where the tables of Safety.lean say that `i` writes it, and PC always. -/
inductive Change (i : Instr) : State → State → Prop where
  | setV {u : State} (x : Reg) (b : Byte) (hw : writesReg x i = true) : Change i u (u.setV x b)
  | loadV {u : State} (x : Reg) (bytes : Nat → Byte) (hw : ∀ r ≤ x, writesReg r i = true) :
      Change i u (u.loadV x bytes)
  | setI {u : State} (a : Word) (hw : writesIndex i = true) : Change i u (u.setI a)
  | setDT {u : State} (b : Byte) (hw : writesDT i = true) : Change i u (u.setDT b)
  | setST {u : State} (b : Byte) (hw : writesST i = true) : Change i u (u.setST b)
  | jump {u : State} (a : Word) : Change i u (u.jump a)
  | setStack {u : State} (sp : Fin 17) (stack : Vector Word 16) (hw : usesStack i = true) :
      Change i u { u with sp := sp, stack := stack }
  | storeBytes {u : State} (a : Nat) (bytes : List Byte) (hw : storesToMemory i = true) :
      Change i u (u.storeBytes a bytes)
  | setPicture {u : State} (d : Display) (hw : writesPicture i = true) : Change i u (u.setPicture d)
  | drawn {u : State} (hw : drawsRandom i = true) : Change i u u.drawn

/-- Any number of changes that the body of `i` may make. -/
abbrev Changes (i : Instr) : State → State → Prop := Relation.ReflTransGen (Change i)

namespace Changes

variable {i : Instr} {s u : State}

theorem advance (h : Changes i s u) : Changes i s u.advance := h.tail (.jump _)

theorem skipIf (h : Changes i s u) (c : Bool) : Changes i s (u.skipIf c) :=
  u.skipIf_eq c ▸ h.tail (.jump _)

/-- The shape of the bodies that write one register. -/
theorem setV_advance {x : Reg} {b : Byte} (h : Changes i s u) (hw : writesReg x i = true) :
    Changes i s (u.setV x b).advance := advance (h.tail (.setV x b hw))

/-- The shape of the bodies that write a result and the flag. -/
theorem setResultAndFlag_advance {x : Reg} {b f : Byte} (hx : writesReg x i = true) (hf : writesReg vf i = true) :
    Changes i s (s.setResultAndFlag x b f).advance :=
  setV_advance (.single (.setV x b hx)) hf

/-- What every change of `i` keeps, any number of them keeps. -/
theorem keeps {α : Type} (f : State → α) (hf : ∀ u v, Change i u v → f v = f u) (h : Changes i s u) :
    f u = f s := by
  induction h with
  | refl => rfl
  | tail _ hc ih => exact (hf _ _ hc).trans ih

end Changes

/-- Everything a completed body can have done. -/
theorem exec_changes {i : Instr} {s t : State} (h : exec i s = .next t) : Changes i s t := by
  cases i with
  | cls => cases h; exact .advance (.single (.setPicture _ rfl))
  | ret =>
    obtain ⟨-, hpop⟩ | ⟨_, _, hpop⟩ := s.pop_cases
    · simp [exec, execRet, hpop, raiseFatal] at h
    · simp only [exec, execRet, hpop] at h
      cases h
      exact .tail (.single (.setStack _ s.stack rfl)) (.jump _)
  | jp nnn => cases h; exact .single (.jump _)
  | call nnn =>
    obtain ⟨-, hpush⟩ | ⟨_, hpush⟩ := s.push_cases s.pc
    · simp [exec, execCall, hpush, raiseFatal] at h
    · simp only [exec, execCall, hpush] at h
      cases h
      exact .tail (.single (.setStack _ _ rfl)) (.jump _)
  | jpV0 nnn => cases h; exact .single (.jump _)
  | seImm x nn | sneImm x nn | seReg x y | sneReg x y | skp x | sknp x => cases h; exact .skipIf .refl _
  | ldImm x nn | addImm x nn | ldReg x y | orReg x y | andReg x y | xorReg x y | ldVxDT x =>
    cases h; exact .setV_advance .refl (decide_eq_true rfl)
  | addReg x y | subReg x y | shr x | subnReg x y | shl x =>
    cases h; exact .setResultAndFlag_advance (by simp [writesReg]) (by simp [writesReg])
  | rnd x nn => cases h; exact .advance (.tail (.single (.setV _ _ (decide_eq_true rfl))) (.drawn rfl))
  | ldVxK x =>
    simp only [exec, execLdVxK] at h
    split at h
    · cases h; exact .setV_advance .refl (decide_eq_true rfl)
    · cases h; exact .refl
  | ldDTVx x => cases h; exact .advance (.single (.setDT _ rfl))
  | ldSTVx x => cases h; exact .advance (.single (.setST _ rfl))
  | ldI nnn | ldF x => cases h; exact .advance (.single (.setI _ rfl))
  | addI x =>
    cases h; exact .setV_advance (.tail (.single (.setST _ rfl)) (.setI _ rfl)) rfl
  | drw x y n =>
    obtain ⟨-, rfl⟩ := withDataRange_eq_next_iff.1 h
    exact .setV_advance (.single (.setPicture _ rfl)) rfl
  | ldB x | storeRegs x =>
    obtain ⟨-, rfl⟩ := withDataRange_eq_next_iff.1 h
    exact .advance (.single (.storeBytes _ _ rfl))
  | loadRegs x =>
    obtain ⟨-, rfl⟩ := withDataRange_eq_next_iff.1 h
    exact .advance (.single (.loadV _ _ fun _ hr => decide_eq_true hr))

/-- What every change of `i` keeps, a completed body of `i` keeps. -/
theorem exec_keeps {α : Type} (f : State → α) {i : Instr} {s t : State}
    (hf : ∀ u v, Change i u v → f v = f u) (h : exec i s = .next t) : f t = f s :=
  (exec_changes h).keeps f hf

/-- What every step keeps, any number of steps keeps. -/
theorem run_keeps {α : Type} (f : State → α) (hf : ∀ u v, step u = .next v → f v = f u) {n : Nat} {s t : State}
    (h : Host.Core.run Sys2Proof.core n s = .next t) : f t = f s := by
  induction n generalizing s with
  | zero => cases h; rfl
  | succ n ih =>
    simp only [Host.Core.run] at h
    split at h
    next u hu => exact (ih h).trans (hf s u hu)
    next => cases h
    next => cases h

/-! ### What the host operations answer -/

/-- An operation completes exactly on an alive machine on which it completes. -/
theorem whenAlive_eq_next_iff {α : Type} {s : State} {op : Host.Outcome α Fault Refusal} {a : α} :
    whenAlive s op = .next a ↔ s.fatal = none ∧ op = .next a := by
  unfold whenAlive
  split <;> simp_all

/-- SetKey completes exactly on an alive machine with an index below 16, and sets that flag. -/
theorem setKey_eq_next_iff {index : Nat} {pressed : Bool} {s t : State} :
    setKey index pressed s = .next t ↔
      s.fatal = none ∧ ∃ h : index < 16, t = { s with key := s.key.set index pressed h } := by
  rw [setKey, whenAlive_eq_next_iff]
  by_cases h : index < 16 <;> simp [h, raiseFatal, eq_comm]

/-- Load answers exactly on an alive machine: it stores the whole image or nothing. -/
theorem loadImage_eq_next_iff {image : List Byte} {s t : State} {r : LoadStatus} :
    loadImage image s = .next (r, t) ↔ s.fatal = none ∧
      (r, t) = if image.length ≤ maxImage then (.ok, s.storeBytes progBase image) else (.loadError, s) := by
  rw [loadImage, whenAlive_eq_next_iff, Host.Outcome.next.injEq, eq_comm (a := (r, t))]

/-- ConsumeFrame answers exactly on an alive machine: a dirty buffer is handed over and marked clean. -/
theorem consumeFrame_eq_next_iff {s t : State} {frame : Option Display} :
    consumeFrame s = .next (frame, t) ↔ s.fatal = none ∧
      (frame, t) = if s.dirty then (some s.disp, { s with dirty := false }) else (none, s) := by
  rw [consumeFrame, whenAlive_eq_next_iff, Host.Outcome.next.injEq, eq_comm (a := (frame, t))]

/-! ### Key flags (R40) -/

theorem exec_keeps_key {i : Instr} {s t : State} (h : exec i s = .next t) : t.key = s.key :=
  exec_keeps State.key (fun _ _ hc => by cases hc <;> rfl) h

theorem step_keeps_key {s t : State} (h : step s = .next t) : t.key = s.key := by
  obtain ⟨i, u, -, hu, rfl⟩ := step_eq_next_iff.1 h
  exact (State.tick_key u).trans (exec_keeps_key hu)

theorem keyDown_set (s : State) (k j : Key) (pressed : Bool) :
    ({ s with key := s.key.set k.val pressed } : State).keyDown j = if j = k then pressed else s.keyDown j := by
  simp only [State.keyDown, Vector.getElem_set, Fin.ext_iff, eq_comm]

/-- Settles O15: no change a body makes touches a key flag, and SetKey sets the flag it names. -/
theorem keysChangeOnlyBySetKey : Obligations.KeysChangeOnlyBySetKey := by
  refine ⟨fun i s t => exec_keeps_key, fun n s t => run_keeps State.key fun _ _ => step_keeps_key, ?_⟩
  intro k pressed s halive
  refine ⟨_, setKey_eq_next_iff.2 ⟨halive, k.isLt, rfl⟩, ?_, fun j hj => ?_⟩
  · rw [keyDown_set, if_pos rfl]
  · rw [keyDown_set, if_neg hj]

/-! ### The picture and DIRTY (R38) -/

theorem exec_keeps_picture {i : Instr} {s t : State} (h : exec i s = .next t) (hi : writesPicture i = false) :
    KeepsPicture s t := by
  have hf : ∀ u v, Change i u v → (v.disp, v.dirty) = (u.disp, u.dirty) := by
    intro u v hc
    cases hc with
    | setPicture d hw => simp [hi] at hw
    | _ => rfl
  exact Prod.mk.inj (exec_keeps (fun u => (u.disp, u.dirty)) hf h)

theorem dirty_of_exec {i : Instr} {s t : State} (h : exec i s = .next t) (hi : writesPicture i = true) :
    t.dirty = true := by
  cases i with
  | cls => cases h; rfl
  | drw x y n =>
    obtain ⟨-, rfl⟩ := withDataRange_eq_next_iff.1 h
    rfl
  | _ => cases hi

/-- The state with another value of DIRTY. -/
def State.withDirty (s : State) (b : Bool) : State := { s with dirty := b }

/-- A drawing body sets DIRTY whatever it was. -/
theorem exec_withDirty_of_draws {i : Instr} (s : State) (b : Bool) (hi : writesPicture i = true) :
    exec i (s.withDirty b) = exec i s := by
  cases i with
  | cls | drw x y n => rfl
  | _ => cases hi

theorem andThen_withDataRange (s t : State) (count : Nat) (f : State → State) :
    andThen (withDataRange s count t) f = withDataRange s count (f t) := by
  unfold withDataRange
  split <;> rfl

@[simp] theorem State.withDirty_pc (s : State) (b : Bool) : (s.withDirty b).pc = s.pc := rfl

theorem pop_withDirty (s : State) (b : Bool) :
    (s.withDirty b).pop = s.pop.map (Prod.map id (·.withDirty b)) := by
  by_cases h : 0 < s.sp.val <;> simp [State.pop, State.withDirty, h]

theorem push_withDirty (s : State) (b : Bool) (a : Word) :
    (s.withDirty b).push a = (s.push a).map (·.withDirty b) := by
  by_cases h : s.sp.val < 16 <;> simp [State.push, State.withDirty, h]

theorem skipIf_withDirty (s : State) (b c : Bool) : (s.withDirty b).skipIf c = (s.skipIf c).withDirty b := by
  cases c <;> rfl

theorem leastKey_withDirty (s : State) (b : Bool) : leastKey (s.withDirty b) = leastKey s := rfl

/-- Every other body carries DIRTY through unread. -/
theorem exec_withDirty {i : Instr} (s : State) (b : Bool) (hi : writesPicture i = false) :
    exec i (s.withDirty b) = andThen (exec i s) (·.withDirty b) := by
  cases i with
  | cls | drw x y n => cases hi
  | ret =>
    simp only [exec, execRet, pop_withDirty]
    cases s.pop <;> rfl
  | call nnn =>
    simp only [exec, execCall, push_withDirty, State.withDirty_pc]
    cases s.push s.pc <;> rfl
  | seImm x nn | sneImm x nn | seReg x y | sneReg x y | skp x | sknp x =>
    exact congrArg Host.Outcome.next (skipIf_withDirty s b _)
  | ldVxK x =>
    simp only [exec, execLdVxK, leastKey_withDirty]
    cases leastKey s <;> rfl
  | ldB x | storeRegs x | loadRegs x =>
    simp only [exec, execLdB, execStoreRegs, execLoadRegs, andThen_withDataRange]
    rfl
  | _ => rfl

theorem andThen_andThen (r : Result) (f g : State → State) :
    andThen (andThen r f) g = andThen r (fun t => g (f t)) := by
  cases r <;> rfl

/-- Settles O18: only the picture change touches DISP and DIRTY, and changing DIRTY before a body that draws does
nothing, before any other body the same as changing it after. -/
theorem dirtyFlagIsSetByDrawingClearedByConsume : Obligations.DirtyFlagIsSetByDrawingClearedByConsume := by
  refine ⟨fun i s t h => ⟨dirty_of_exec h, exec_keeps_picture h⟩, ?_, ?_, ?_, ?_⟩
  · intro s t frame h
    obtain ⟨-, h⟩ := consumeFrame_eq_next_iff.1 h
    split at h
    next hd => cases h; exact ⟨rfl, fun hd' => absurd hd (by simp [hd'])⟩
    next hd => cases h; exact ⟨eq_false_of_ne_true hd, fun _ => rfl⟩
  · intro s t image r h
    obtain ⟨-, h⟩ := loadImage_eq_next_iff.1 h
    split at h <;> cases h <;> rfl
  · intro s t index pressed h
    obtain ⟨-, -, rfl⟩ := setKey_eq_next_iff.1 h
    rfl
  · intro i s b
    cases hi : writesPicture i with
    | true => exact congrArg (andThen · _) (exec_withDirty_of_draws s b hi)
    | false => exact (congrArg (andThen · _) (exec_withDirty s b hi)).trans (andThen_andThen _ _ _)

/-! ### Timers, FATAL, FONT and the draw counter (R34, R42, R43) -/

section

variable {i : Instr} {s t : State} (h : exec i s = .next t)

include h

theorem exec_keeps_dt (hi : writesDT i = false) : t.dt = s.dt := by
  refine exec_keeps State.dt (fun u v hc => ?_) h
  cases hc with
  | setDT b hw => simp [hi] at hw
  | _ => rfl

theorem exec_keeps_st (hi : writesST i = false) : t.st = s.st := by
  refine exec_keeps State.st (fun u v hc => ?_) h
  cases hc with
  | setST b hw => simp [hi] at hw
  | _ => rfl

theorem exec_keeps_draws (hi : drawsRandom i = false) : t.draws = s.draws := by
  refine exec_keeps State.draws (fun u v hc => ?_) h
  cases hc with
  | drawn hw => simp [hi] at hw
  | _ => rfl

theorem exec_keeps_fatal : t.fatal = s.fatal :=
  exec_keeps State.fatal (fun _ _ hc => by cases hc <;> rfl) h

theorem exec_keeps_font : t.mem.font = s.mem.font := by
  refine exec_keeps (fun u => u.mem.font) (fun u v hc => ?_) h
  cases hc with
  | storeBytes a bytes _ => exact Memory.font_writeBytes _ _ _
  | _ => rfl

end

/-- Settles O22, from the changes a body is made of. -/
theorem timersFatalAndFontAreKept : Obligations.TimersFatalAndFontAreKept :=
  fun _ _ _ h =>
    ⟨exec_keeps_dt h, exec_keeps_st h, exec_keeps_fatal h, exec_keeps_font h, exec_keeps_draws h⟩

/-! ### Memory after reset (R21, R30) -/

theorem initialByte_eq (font : Font) (a : Nat) :
    initialByte font a = if h : 0x050 ≤ a ∧ a ≤ 0x09F then font[a - 0x050]'(by omega) else 0 := by
  simp only [initialByte, fontBase, fontSize]
  exact dite_congr (propext (by omega)) (fun _ => rfl) (fun _ => rfl)

theorem read_initial (font : Font) (a : Nat) : (Memory.initial font).read a = initialByte font a := rfl

/-- Settles O26: nothing is listed in the memory of a new machine, so each cell reads its reset contents. -/
theorem resetLeavesMemoryFontAndPc : Obligations.ResetLeavesMemoryFontAndPc :=
  fun _ font => ⟨rfl, fun a _ => (read_initial font a).trans (initialByte_eq font a)⟩

end Sys2Proof.Machine

/-! SUPPORT. Proofs for the statements of memory (spec 20_memory): the reset contents under any writes elsewhere, the
fetch of an illegal word, and the canonical form as a normal form. -/

namespace Sys2Proof.Machine

/-! ### Memory that nothing has written (R66) -/

/-- Writes to other addresses leave what an address reads. -/
theorem Memory.read_foldl_write_of_ne (m : Memory) {writes : List (Nat × Byte)} {a : Nat}
    (h : ∀ w ∈ writes, w.1 ≠ a) : (writes.foldl (fun m w => m.write w.1 w.2) m).read a = m.read a := by
  induction writes generalizing m with
  | nil => rfl
  | cons w rest ih =>
    obtain ⟨hw, hrest⟩ := List.forall_mem_cons.1 h
    exact (ih _ hrest).trans (m.read_write_of_ne w.2 hw.symm)

theorem fetchWord_of_inRange {s : State} (hpc : s.pc.toNat + 1 ≤ 0xFFF) : fetchWord s = .ok (wordAtPc s) :=
  if_neg (Nat.not_lt.2 hpc)

theorem step_of_fetchInstr_error {s : State} {cause : Fault} (halive : s.fatal = none)
    (h : fetchInstr s = .error cause) : step s = .fault cause := by
  simp [step, cycle, whenAlive, halive, liveCycle, h, raiseFatal]

/-- An alive machine that fetches an illegal word dies of it. -/
theorem step_of_illegal_word {s : State} (halive : s.fatal = none) (hpc : s.pc.toNat + 1 ≤ 0xFFF)
    (hw : decode (wordAtPc s) = none) : step s = .fault (.illegalInstruction (wordAtPc s)) :=
  step_of_fetchInstr_error halive (by simp [fetchInstr, fetchWord_of_inRange hpc, hw])

/-- Settles O28: each write leaves the other addresses alone, and the zero word has no row. -/
theorem unwrittenMemoryReadsItsResetContents : Obligations.UnwrittenMemoryReadsItsResetContents := by
  refine ⟨fun font writes a h => ?_, fun s halive hpc hhi hlo => ?_⟩
  · calc (writes.foldl (fun m w => m.write w.1 w.2) (Memory.initial font)).read a
      _ = (Memory.initial font).read a := Memory.read_foldl_write_of_ne _ h
      _ = initialByte font a := read_initial font a
      _ = _ := initialByte_eq font a
  · have hzero : wordAtPc s = 0#16 := by rw [wordAtPc, hhi, hlo]; rfl
    have hillegal : decode (wordAtPc s) = none := by rw [hzero]; decide
    rw [step_of_illegal_word halive hpc hillegal, hzero]

/-! ### The canonical form is a normal form (log entry 20) -/

theorem cellsWf_cons_iff {font : Font} {lo c : Nat} {v : Byte} {l : List Host.Cell} :
    cellsWf font lo ((c, v) :: l) = true ↔
      lo ≤ c ∧ c < memSize ∧ v ≠ initialByte font c ∧ cellsWf font (c + 1) l = true := by
  simp only [cellsWf, Bool.and_eq_true, decide_eq_true_eq, bne_iff_ne, and_assoc]

@[simp] theorem findCell_cons_self (c : Nat) (v : Byte) (l : List Host.Cell) : findCell ((c, v) :: l) c = some v :=
  if_pos rfl

theorem findCell_cons_of_ne {c a : Nat} (v : Byte) (l : List Host.Cell) (h : c ≠ a) :
    findCell ((c, v) :: l) a = findCell l a := if_neg h

/-- In canonical form no listed byte is the reset contents. -/
theorem ne_initialByte_of_findCell {font : Font} {lo a : Nat} {v : Byte} {l : List Host.Cell}
    (hl : cellsWf font lo l = true) (h : findCell l a = some v) : v ≠ initialByte font a := by
  induction l generalizing lo with
  | nil => cases h
  | cons cu rest ih =>
    obtain ⟨c, u⟩ := cu
    obtain ⟨-, -, hu, hrest⟩ := cellsWf_cons_iff.1 hl
    obtain rfl | hc := eq_or_ne c a
    · rw [findCell_cons_self] at h
      cases h
      exact hu
    · exact ih hrest (findCell_cons_of_ne u rest hc ▸ h)

/-- In canonical form what an address reads tells what is listed there. -/
theorem findCell_eq_some_iff_of_wf {font : Font} {lo a : Nat} {v : Byte} {l : List Host.Cell}
    (hl : cellsWf font lo l = true) : findCell l a = some v ↔
      (findCell l a).getD (initialByte font a) = v ∧ v ≠ initialByte font a := by
  cases h : findCell l a with
  | none => simpa using fun hv : initialByte font a = v => hv.symm
  | some u =>
    simpa using fun huv : u = v => huv ▸ ne_initialByte_of_findCell hl h

/-- No listed address lies before the first one. -/
theorem le_of_findCell_cons {font : Font} {lo c a : Nat} {u v : Byte} {l : List Host.Cell}
    (hl : cellsWf font lo ((c, u) :: l) = true) (h : findCell ((c, u) :: l) a = some v) : c ≤ a := by
  obtain ⟨-, hc, hu, hrest⟩ := cellsWf_cons_iff.1 hl
  by_contra hlt
  have hnone := findCell_eq_none_of_wf (cellsWf_cons_iff.2 ⟨le_rfl, hc, hu, hrest⟩) (not_le.1 hlt)
  rw [hnone] at h
  cases h

/-- Canonical lists that list the same byte at every address are the same list. -/
theorem eq_of_findCell_eq {font : Font} {lo : Nat} {l l' : List Host.Cell} (hl : cellsWf font lo l = true)
    (hl' : cellsWf font lo l' = true) (h : ∀ a, findCell l a = findCell l' a) : l = l' := by
  induction l generalizing lo l' with
  | nil =>
    cases l' with
    | nil => rfl
    | cons cu' rest' => simpa [findCell] using h cu'.1
  | cons cu rest ih =>
    obtain ⟨c, u⟩ := cu
    cases l' with
    | nil => simpa [findCell] using h c
    | cons cu' rest' =>
      obtain ⟨c', u'⟩ := cu'
      have hle : c' ≤ c := le_of_findCell_cons hl' ((h c).symm.trans (findCell_cons_self c u rest))
      have hge : c ≤ c' := le_of_findCell_cons hl ((h c').trans (findCell_cons_self c' u' rest'))
      obtain rfl := le_antisymm hle hge
      obtain rfl : u = u' := by simpa using h c'
      obtain ⟨-, -, -, hrest⟩ := cellsWf_cons_iff.1 hl
      obtain ⟨-, -, -, hrest'⟩ := cellsWf_cons_iff.1 hl'
      have htail : ∀ a, findCell rest a = findCell rest' a := by
        intro a
        obtain rfl | ha := eq_or_ne c' a
        · rw [findCell_eq_none_of_wf hrest (Nat.lt_succ_self _), findCell_eq_none_of_wf hrest' (Nat.lt_succ_self _)]
        · simpa only [findCell_cons_of_ne _ _ ha] using h a
      rw [ih hrest hrest' htail]

/-- Settles O29: in canonical form the bytes read fix the cells listed, and those fix the list. -/
theorem canonicalMemoriesThatReadAlikeAreEqual : Obligations.CanonicalMemoriesThatReadAlikeAreEqual := by
  rintro ⟨font, cells⟩ ⟨font', cells'⟩ hm hm' rfl hread
  have hcells : ∀ a, findCell cells a = findCell cells' a := by
    intro a
    have hbyte : (findCell cells a).getD (initialByte font a) = (findCell cells' a).getD (initialByte font a) := hread a
    refine Option.ext fun v => ?_
    rw [findCell_eq_some_iff_of_wf hm, findCell_eq_some_iff_of_wf hm', hbyte]
  exact congrArg (Memory.mk font) (eq_of_findCell_eq hm hm' hcells)

end Sys2Proof.Machine

/-! SUPPORT. Proofs for the statements of encoding (spec 30_encoding): what a row of the opcode map says of a word's
fields, and that the decoder answers exactly the row the fields satisfy. -/

namespace Sys2Proof.Machine

/-! ### The rows as conditions on fields (R74) -/

/-- Formats `NNN`, `XNN` and `XYN`. -/
theorem satisfiedBy_F000_iff {w p : Word} (hp : p &&& 0xF000#16 = p) :
    (OpcodeRow.mk 0xF000#16 p).satisfiedBy w = true ↔ fieldOp w = fieldOp p := by
  simp only [BitVec.toNat_eq, toNat_and_F000] at hp
  simp only [OpcodeRow.satisfiedBy, beq_iff_eq, BitVec.toNat_eq, toNat_and_F000, toNat_fieldOp]
  omega

/-- Format `XY`. -/
theorem satisfiedBy_F00F_iff {w p : Word} (hp : p &&& 0xF00F#16 = p) :
    (OpcodeRow.mk 0xF00F#16 p).satisfiedBy w = true ↔ fieldOp w = fieldOp p ∧ fieldN w = fieldN p := by
  simp only [BitVec.toNat_eq, toNat_and_F00F] at hp
  simp only [OpcodeRow.satisfiedBy, beq_iff_eq, BitVec.toNat_eq, toNat_and_F00F, toNat_fieldOp, toNat_fieldN]
  omega

/-- Format `X`. -/
theorem satisfiedBy_F0FF_iff {w p : Word} (hp : p &&& 0xF0FF#16 = p) :
    (OpcodeRow.mk 0xF0FF#16 p).satisfiedBy w = true ↔ fieldOp w = fieldOp p ∧ fieldNn w = fieldNn p := by
  simp only [BitVec.toNat_eq, toNat_and_F0FF] at hp
  simp only [OpcodeRow.satisfiedBy, beq_iff_eq, BitVec.toNat_eq, toNat_and_F0FF, toNat_fieldOp, toNat_fieldNn]
  omega

/-- The two instructions without operands. -/
theorem satisfiedBy_FFFF_iff {w p : Word} : (OpcodeRow.mk 0xFFFF#16 p).satisfiedBy w = true ↔ w = p := by
  rw [OpcodeRow.satisfiedBy, beq_iff_eq, show (0xFFFF#16 : Word) = BitVec.allOnes 16 from rfl, BitVec.and_allOnes]

/-! ### What the decoder answers -/

/-- A word of the instruction's row with the instruction's operands in its fields. -/
def IsWordOf (w : Word) (i : Instr) : Prop := i.row.satisfiedBy w = true ∧ operandsAreFields w i

section

variable {w : Word} {i : Instr}

theorem isWordOf_of_decode0 (h : decode0 w = some i) : IsWordOf w i := by
  unfold decode0 at h
  split at h
  next hw => cases h; exact ⟨satisfiedBy_FFFF_iff.2 hw, trivial⟩
  split at h
  next hw => cases h; exact ⟨satisfiedBy_FFFF_iff.2 hw, trivial⟩
  next => cases h

theorem isWordOf_of_decode8 (hop : fieldOp w = 0x8#4) (h : decode8 w = some i) : IsWordOf w i := by
  unfold decode8 at h
  split at h
  case h_10 => cases h
  all_goals
    next hn =>
      cases h
      exact ⟨(satisfiedBy_F00F_iff (by decide)).2 ⟨hop, BitVec.eq_of_toNat_eq hn⟩, by simp [operandsAreFields]⟩

theorem isWordOf_of_decodeE (hop : fieldOp w = 0xE#4) (h : decodeE w = some i) : IsWordOf w i := by
  unfold decodeE at h
  split at h
  case h_3 => cases h
  all_goals
    next hnn =>
      cases h
      exact ⟨(satisfiedBy_F0FF_iff (by decide)).2 ⟨hop, BitVec.eq_of_toNat_eq hnn⟩, rfl⟩

theorem isWordOf_of_decodeF (hop : fieldOp w = 0xF#4) (h : decodeF w = some i) : IsWordOf w i := by
  unfold decodeF at h
  split at h
  case h_10 => cases h
  all_goals
    next hnn =>
      cases h
      exact ⟨(satisfiedBy_F0FF_iff (by decide)).2 ⟨hop, BitVec.eq_of_toNat_eq hnn⟩, rfl⟩

/-- A decoded word is one of the instruction's row, and its fields are the operands. -/
theorem isWordOf_of_decode (h : decode w = some i) : IsWordOf w i := by
  unfold decode at h
  split at h
  case h_1 => exact isWordOf_of_decode0 h
  case h_9 hop => exact isWordOf_of_decode8 (BitVec.eq_of_toNat_eq hop) h
  case h_15 hop => exact isWordOf_of_decodeE (BitVec.eq_of_toNat_eq hop) h
  case h_16 =>
    have hop : (fieldOp w).toNat = 0xF := by simp only [imp_false] at *; omega
    exact isWordOf_of_decodeF (BitVec.eq_of_toNat_eq hop) h
  case h_6 hop | h_10 hop =>
    split at h
    next hn =>
      cases h
      exact ⟨(satisfiedBy_F00F_iff (by decide)).2 ⟨BitVec.eq_of_toNat_eq hop, hn⟩, rfl, rfl⟩
    next => cases h
  all_goals
    next hop =>
      cases h
      exact ⟨(satisfiedBy_F000_iff (by decide)).2 (BitVec.eq_of_toNat_eq hop), by simp [operandsAreFields]⟩

end

/-- The decoder answers an instruction of every row that the word satisfies. -/
theorem map_row_decode_of_satisfiedBy {w : Word} (j : Instr) (h : j.row.satisfiedBy w = true) :
    (decode w).map Instr.row = some j.row := by
  cases j with
  | cls | ret =>
    obtain rfl := satisfiedBy_FFFF_iff.1 h
    rfl
  | jp | call | seImm | sneImm | ldImm | addImm | ldI | jpV0 | rnd | drw =>
    rw [decode, (satisfiedBy_F000_iff (by decide)).1 h]
    rfl
  | seReg | sneReg | ldReg | orReg | andReg | xorReg | addReg | subReg | shr | subnReg | shl =>
    obtain ⟨hop, hn⟩ := (satisfiedBy_F00F_iff (by decide)).1 h
    simp only [decode, decode8, hop, hn]
    rfl
  | skp | sknp | ldVxDT | ldVxK | ldDTVx | ldSTVx | addI | ldF | ldB | storeRegs | loadRegs =>
    obtain ⟨hop, hnn⟩ := (satisfiedBy_F0FF_iff (by decide)).1 h
    simp only [decode, decodeE, decodeF, hop, hnn]
    rfl

/-! ### The opcode map (R74) -/

theorem row_mem_opcodeRows (i : Instr) : i.row ∈ opcodeRows := by
  cases i <;> simp [opcodeRows, sampleInstrs, Instr.row]

theorem map_row_decode_of_mem_opcodeRows {w : Word} {r : OpcodeRow} (hr : r ∈ opcodeRows)
    (h : r.satisfiedBy w = true) : (decode w).map Instr.row = some r := by
  obtain ⟨j, -, rfl⟩ := List.mem_map.1 hr
  exact map_row_decode_of_satisfiedBy j h

theorem wellFormedWord_iff_exists_decode {w : Word} : wellFormedWord w = true ↔ ∃ i, decode w = some i := by
  rw [wellFormedWord, List.any_eq_true]
  constructor
  · rintro ⟨r, hr, h⟩
    obtain ⟨i, hi, -⟩ := Option.map_eq_some_iff.1 (map_row_decode_of_mem_opcodeRows hr h)
    exact ⟨i, hi⟩
  · rintro ⟨i, hi⟩
    exact ⟨i.row, row_mem_opcodeRows i, (isWordOf_of_decode hi).1⟩

/-- Settles O2: the decoder answers an instruction of each row that the word satisfies, so there is one at most. -/
theorem decodeFollowsTheOpcodeMap : Obligations.DecodeFollowsTheOpcodeMap := by
  refine ⟨fun w i h => ⟨row_mem_opcodeRows i, (isWordOf_of_decode h).1⟩, ?_, ?_, ?_, rfl⟩
  · exact fun w r hr h => Option.map_eq_some_iff.1 (map_row_decode_of_mem_opcodeRows hr h)
  · intro w
    rw [Option.eq_none_iff_forall_ne_some, Bool.eq_false_iff, ne_eq, wellFormedWord_iff_exists_decode, not_exists]
  · intro w r r' hr hr' h h'
    exact Option.some.inj
      ((map_row_decode_of_mem_opcodeRows hr h).symm.trans (map_row_decode_of_mem_opcodeRows hr' h'))

/-! ### The field layout (R71) -/

/-- Settles O1: the fields are the base 16 digits of the word, and the decoder puts fields in every operand. -/
theorem wordHasOneFieldLayout : Obligations.WordHasOneFieldLayout := by
  refine ⟨fun w => ?_, fun hi lo => ?_, fun w i h => (isWordOf_of_decode h).2⟩
  · rw [toNat_fieldOp, val_fieldX, val_fieldY, toNat_fieldN, toNat_fieldNn, toNat_fieldNnn]
    omega
  · rw [BitVec.toNat_eq, toNat_fieldOp, val_fieldX, val_fieldY, toNat_fieldN, toNat_fieldNn, toNat_wordOfBytes]
    omega

end Sys2Proof.Machine

/-! SUPPORT. Proofs for the statements of the step cycle (spec 40_step_cycle): what a step does with the word at PC, the
next PC of every instruction, and the timers, which the tick lowers after each body. -/

namespace Sys2Proof.Machine

/-! ### Fetch, decode, body, tick (R90 to R92) -/

/-- A step of the next instruction is its body and then the tick. -/
theorem step_of_nextInstr {s : State} {i : Instr} (h : NextInstr s i) : step s = andThen (exec i s) State.tick := by
  obtain ⟨halive, hfetch⟩ := h
  simp [step, cycle, whenAlive, halive, liveCycle, fetchInstr_eq_ok_iff.2 hfetch]

/-- A body that completes makes the step complete, with the tick after it. -/
theorem step_of_exec_next {s u : State} {i : Instr} (h : NextInstr s i) (hu : exec i s = .next u) :
    step s = .next u.tick :=
  step_eq_next_iff.2 ⟨i, u, h, hu, rfl⟩

theorem stepHost_of_fault {s : State} {cause : Fault} (h : step s = .fault cause) : stepHost s = s.enterFatal cause := by
  simp [stepHost, h, afterOutcome]

theorem toNat_wordAtPc (s : State) :
    (wordAtPc s).toNat = (s.readByte s.pc.toNat).toNat * 256 + (s.readByte (s.pc.toNat + 1)).toNat :=
  toNat_wordOfBytes _ _

/-- An alive machine whose PC is past the last fetch dies of it. -/
theorem step_of_pc_outOfRange {s : State} (halive : s.fatal = none) (hpc : s.pc.toNat + 1 > 0xFFF) :
    step s = .fault (.fetchOutOfBounds s.pc) :=
  step_of_fetchInstr_error halive (by simp [fetchInstr, fetchWord, hpc])

/-- Settles O7: the step is the body followed by the tick, which leaves a fault as it is. -/
theorem stepRunsTheFetchedInstruction : Obligations.StepRunsTheFetchedInstruction := by
  intro s i hi
  exact ⟨toNat_wordAtPc s, fun u => step_of_exec_next hi,
    fun f hf => (step_of_nextInstr hi).trans (andThen_eq_fault_iff.2 hf)⟩

/-- Settles O8: the fetch either fails on its bound, and the host finds the fatal entered, or gives the word at PC. -/
theorem fetchPastTheEndIsFatal : Obligations.FetchPastTheEndIsFatal := by
  intro s halive
  refine ⟨fun hpc => ?_, fun hpc => ⟨wordAtPc s, fetchWord_of_inRange hpc, toNat_wordAtPc s⟩⟩
  have hfault := step_of_pc_outOfRange halive hpc
  exact ⟨hfault, stepHost_of_fault hfault⟩

/-- Settles O9, by the fault of an illegal word and the state that a fault enters. -/
theorem illegalWordIsFatal : Obligations.IllegalWordIsFatal := by
  intro s halive hpc hw
  have hfault := step_of_illegal_word halive hpc hw
  exact ⟨hfault, stepHost_of_fault hfault⟩

/-! ### The next PC (R93) -/

/-- A body that always advances leaves PC at pc0 + 2. -/
theorem pc_of_alwaysAdvances {i : Instr} {s t : State} (h : exec i s = .next t) (hi : alwaysAdvances i = true) :
    t.pc = s.pc + insnBytes := by
  cases i with
  | drw | ldB | storeRegs | loadRegs =>
    obtain ⟨-, rfl⟩ := withDataRange_eq_next_iff.1 h
    rfl
  | ret | jp | call | jpV0 | seImm | sneImm | seReg | sneReg | skp | sknp | ldVxK => cases hi
  | _ => cases h; rfl

/-- A CALL that completes leaves PC at its target. -/
theorem pc_of_call {s t : State} {nnn : Addr} (h : exec (.call nnn) s = .next t) : t.pc = absolute nnn := by
  simp only [exec, execCall] at h
  split at h <;> cases h
  rfl

/-- A RET that completes leaves PC two bytes after the popped address. -/
theorem pc_of_ret {s t : State} (h : exec .ret s = .next t) (hsp : s.sp.val - 1 < 16) :
    t.pc = s.stack[s.sp.val - 1] + insnBytes := by
  obtain ⟨-, hpop⟩ | ⟨_, _, hpop⟩ := s.pop_cases
  · simp [exec, execRet, hpop, raiseFatal] at h
  · simp only [exec, execRet, hpop] at h
    cases h
    rfl

/-- A key is found exactly when one is pressed. -/
theorem leastKey_isSome_iff (s : State) : (leastKey s).isSome = true ↔ ∃ k, s.keyDown k = true := by
  simp [leastKey]

theorem pc_of_ldVxK {s t : State} {x : Reg} (h : exec (.ldVxK x) s = .next t) :
    t.pc = if (leastKey s).isSome then s.pc + insnBytes else s.pc := by
  simp only [exec, execLdVxK] at h
  cases hk : leastKey s <;> rw [hk] at h <;> cases h <;> rfl

theorem toNat_absolute (nnn : Addr) : (absolute nnn).toNat = nnn.toNat := by
  have := nnn.isLt
  simp only [absolute, BitVec.toNat_ofNat]
  omega

theorem toNat_indexed (nnn : Addr) (b : Byte) : (indexed nnn b).toNat = nnn.toNat + b.toNat := by
  have := nnn.isLt
  have := b.isLt
  simp only [indexed, BitVec.toNat_ofNat]
  omega

/-- From an address that fetches, adding the size of an instruction does not wrap. -/
theorem toNat_add_insnBytes {a : Word} (h : a.toNat ≤ 0xFFE) : (a + insnBytes).toNat = a.toNat + 2 := by
  simp only [insnBytes]
  bv_omega

/-- A skip on `c` adds 4 or 2 to a PC that fetches, as the condition that `c` tests holds or not. -/
theorem toNat_skipIf_pc {s : State} (h : s.pc.toNat ≤ 0xFFE) {c : Bool} {P : Prop} [Decidable P]
    (hc : c = true ↔ P) : (s.skipIf c).pc.toNat = s.pc.toNat + if P then 4 else 2 := by
  by_cases hP : P
  · simp only [State.skipIf_pc, hc.2 hP, hP, insnBytes, if_true]
    bv_omega
  · rw [State.skipIf_pc, if_neg (mt hc.1 hP), if_neg hP, toNat_add_insnBytes h]

/-- Settles O23, clause by clause: the target each body gives PC, as a number. -/
theorem nextPcOfEveryInstruction : Obligations.NextPcOfEveryInstruction := by
  refine ⟨fun i s t hpc h => ⟨fun hi => ?_, ?_, ?_, ?_, ?_, ?_, ?_, ?_, ?_, ?_, ?_⟩, rfl⟩
  · rw [pc_of_alwaysAdvances h hi, toNat_add_insnBytes hpc]
  · rintro nnn (rfl | rfl)
    · cases h
      exact toNat_absolute nnn
    · rw [pc_of_call h, toNat_absolute]
  · rintro nnn rfl
    cases h
    exact toNat_indexed nnn _
  · rintro rfl hsp hentry
    rw [pc_of_ret h hsp, toNat_add_insnBytes hentry]
  · rintro x nn rfl
    cases h
    exact toNat_skipIf_pc hpc beq_iff_eq
  · rintro x nn rfl
    cases h
    exact toNat_skipIf_pc hpc bne_iff_ne
  · rintro x y rfl
    cases h
    exact toNat_skipIf_pc hpc beq_iff_eq
  · rintro x y rfl
    cases h
    exact toNat_skipIf_pc hpc bne_iff_ne
  · rintro x rfl
    cases h
    exact toNat_skipIf_pc hpc Iff.rfl
  · rintro x rfl
    cases h
    rw [← ite_not]
    exact toNat_skipIf_pc hpc (by simp)
  · rintro x rfl
    rw [pc_of_ldVxK h]
    simp only [leastKey_isSome_iff]
    split
    · exact toNat_add_insnBytes hpc
    · rfl

/-! ### The tick (R95) and the decay of a timer (R98) -/

section

variable {i : Instr} {s u : State} (h : exec i s = .next u)

include h

theorem toNat_tick_dt_of_exec (hi : writesDT i = false) : u.tick.dt.toNat = s.dt.toNat - 1 := by
  rw [State.tick_dt, tickTimer_toNat, exec_keeps_dt h hi]

theorem toNat_tick_st_of_exec (hi : writesST i = false) : u.tick.st.toNat = s.st.toNat - 1 := by
  rw [State.tick_st, tickTimer_toNat, exec_keeps_st h hi]

end

/-- Settles O10: the tick lowers what the body left, which for the rows of the table is what the body wrote or kept. -/
theorem tickFollowsTheBody : Obligations.TickFollowsTheBody := by
  intro s u i hi hu
  refine ⟨u.tick, step_of_exec_next hi hu, rfl,
    tickTimer_toNat u.dt, tickTimer_toNat u.st, ?_, ?_, ?_, ?_, toNat_tick_dt_of_exec hu, toNat_tick_st_of_exec hu⟩
  · rintro x rfl
    cases hu
    exact tickTimer_toNat (s.getV x)
  · rintro x rfl
    cases hu
    exact tickTimer_toNat (s.getV x)
  · rintro x rfl
    cases hu
    exact tickTimer_toNat (s.getV x)
  · rintro x rfl
    cases hu
    exact State.getV_setV_self s x s.dt

/-- A byte of the state that each step without `p` lowers by one falls by `n` in `n` such steps, to 0 and no further. -/
theorem runsWithout_lowers (timer : State → Byte) {p : Instr → Bool}
    (hstep : ∀ {i s u}, exec i s = .next u → p i = false → (timer u.tick).toNat = (timer s).toNat - 1)
    {n : Nat} {s t : State} (h : RunsWithout p n s t) : (timer t).toNat = (timer s).toNat - n := by
  induction n generalizing s with
  | zero => cases h; rfl
  | succ n ih =>
    obtain ⟨i, v, hi, hp, hv, hrest⟩ := h
    obtain ⟨u, hu, rfl⟩ := andThen_eq_next_iff.1 ((step_of_nextInstr hi).symm.trans hv)
    rw [ih hrest, hstep hu hp]
    omega

/-- Settles O58: each step without a writer of the timer lowers it by one. -/
theorem timersDecayByOneAStep : Obligations.TimersDecayByOneAStep :=
  fun _ _ _ => ⟨runsWithout_lowers State.dt toNat_tick_dt_of_exec, runsWithout_lowers State.st toNat_tick_st_of_exec⟩

/-! ### Fx1E (44_index_memory R141) -/

theorem toNat_flagBit (c : Bool) : (flagBit c).toNat = if c then 1 else 0 := by
  cases c <;> rfl

/-- Settles O48: the body writes I, VF and ST from the state it started in, and the tick follows. -/
theorem addToIndexWritesIndexFlagAndSoundTimer : Obligations.AddToIndexWritesIndexFlagAndSoundTimer := by
  intro s x
  refine ⟨⟨_, rfl, ?_, rfl, ?_, rfl, ?_⟩, fun hi => ⟨_, step_of_exec_next hi rfl, tickTimer_toNat _⟩⟩
  · simp only [State.advance_i, State.setV_i, State.setI_i, BitVec.toNat_ofNat]
    omega
  · simp only [State.advance_getV, State.getV_setV_self, indexOverflowFlag, toNat_flagBit, decide_eq_true_eq]
  · refine ⟨fun r hr => ?_, rfl, ⟨rfl, rfl⟩, ⟨rfl, rfl⟩, ⟨rfl, rfl⟩, ⟨fun _ => rfl, rfl⟩, ⟨rfl, rfl⟩, rfl⟩
    exact State.getV_setV_of_ne _ _ (List.ne_of_not_mem_cons hr)

end Sys2Proof.Machine

/-! SUPPORT. Proofs for the statements of control transfer (spec 41_flow): what a completed CALL and RET did, the frame
of a jump, the round trip of the two, and the invariant of reachable states, whose PC and stack bounds they decide. -/

namespace Sys2Proof.Machine

/-! ### CALL and RET, both directions (R101, R103) -/

/-- A CALL completes exactly on a stack that is not full: entry SP takes the CALL's own address. -/
theorem exec_call_eq_next_iff {s t : State} {nnn : Addr} :
    exec (.call nnn) s = .next t ↔ ∃ h : s.sp.val < 16, t =
      ({ s with stack := s.stack.set s.sp.val s.pc, sp := ⟨s.sp.val + 1, Nat.succ_lt_succ h⟩ } : State).jump
        (absolute nnn) := by
  obtain ⟨hfull, hpush⟩ | ⟨hlt, hpush⟩ := s.push_cases s.pc
  · exact iff_of_false (by simp [exec, execCall, hpush, raiseFatal]) fun ⟨hlt, _⟩ => hlt.ne hfull
  · simp [exec, execCall, hpush, hlt, eq_comm]

/-- A RET completes exactly on a stack that is not empty: SP falls, and PC is two bytes after the entry it then names. -/
theorem exec_ret_eq_next_iff {s t : State} :
    exec .ret s = .next t ↔ ∃ (_ : 0 < s.sp.val) (h : s.sp.val - 1 < 16), t =
      ({ s with sp := ⟨s.sp.val - 1, Nat.lt_of_lt_of_le h (by decide)⟩ } : State).jump
        (s.stack[s.sp.val - 1] + insnBytes) := by
  obtain ⟨hempty, hpop⟩ | ⟨hpos, hlt, hpop⟩ := s.pop_cases
  · exact iff_of_false (by simp [exec, execRet, hpop, raiseFatal]) fun ⟨hpos, _⟩ => hpos.ne' hempty
  · simp [exec, execRet, hpop, hpos, hlt, eq_comm]

/-! ### What a completed body leaves of the invariant's fields -/

/-- What every change of `i` preserves, a completed body of `i` preserves. -/
theorem exec_preserves {P : State → Prop} {i : Instr} {s t : State} (hP : ∀ u v, Change i u v → P u → P v)
    (h : exec i s = .next t) (hs : P s) : P t := by
  have hchanges := exec_changes h
  clear h
  induction hchanges with
  | refl => exact hs
  | tail _ hc ih => exact hP _ _ hc ih

section

variable {i : Instr} {s t : State} (h : exec i s = .next t)

include h

theorem exec_keeps_memWf (hs : s.mem.wf = true) : t.mem.wf = true := by
  refine exec_preserves (P := fun u => u.mem.wf = true) (fun u v hc hu => ?_) h hs
  cases hc with
  | storeBytes a bytes _ => exact Memory.wf_writeBytes a bytes hu
  | _ => exact hu

theorem exec_keeps_i (hi : writesIndex i = false) : t.i = s.i := by
  refine exec_keeps State.i (fun u v hc => ?_) h
  cases hc with
  | setI a hw => simp [hi] at hw
  | _ => rfl

theorem exec_keeps_stack (hi : usesStack i = false) : KeepsStack s t := by
  have hf : ∀ u v, Change i u v → (v.sp, v.stack) = (u.sp, u.stack) := by
    intro u v hc
    cases hc with
    | setStack sp stack hw => simp [hi] at hw
    | _ => rfl
  exact Prod.mk.inj (exec_keeps (fun u => (u.sp, u.stack)) hf h)

end

/-! ### The bounds of I, PC and the stack entries (10_state R29, R31; 41_flow R103) -/

theorem toNat_absolute_le (nnn : Addr) : (absolute nnn).toNat ≤ 0xFFF := by
  have := nnn.isLt
  rw [toNat_absolute]
  omega

theorem toNat_indexed_le (nnn : Addr) (b : Byte) : (indexed nnn b).toNat ≤ 0x10FE := by
  have := nnn.isLt
  have := b.isLt
  rw [toNat_indexed]
  omega

theorem toNat_skipIf_pc_le {s : State} (h : s.pc.toNat ≤ 0xFFE) (c : Bool) :
    (s.skipIf c).pc.toNat ≤ s.pc.toNat + 4 := by
  rw [toNat_skipIf_pc h (c := c) Iff.rfl]
  split <;> omega

/-- The last glyph begins at 0x09B. -/
theorem toNat_glyphAddress_le (b : Byte) : (glyphAddress b).toNat ≤ 0x09B := by
  have := (lowNibble b).isLt
  simp only [glyphAddress, fontBase, glyphSize, BitVec.toNat_ofNat]
  exact (Nat.mod_le _ _).trans (by omega)

section

variable {i : Instr} {s t : State} (h : exec i s = .next t)

include h

/-- I takes a 12-bit address, a glyph's address, or a sum reduced to 12 bits. -/
theorem exec_keeps_indexBound (hs : s.i.toNat ≤ 0xFFF) : t.i.toNat ≤ 0xFFF := by
  cases hi : writesIndex i with
  | false => rwa [exec_keeps_i h hi]
  | true =>
    cases i with
    | ldI nnn => cases h; exact toNat_absolute_le nnn
    | ldF x => cases h; exact (toNat_glyphAddress_le _).trans (by decide)
    | addI x =>
      cases h
      simp only [State.advance_i, State.setV_i, State.setI_i, BitVec.toNat_ofNat]
      omega
    | _ => cases hi

/-- The highest next PC is that of `Bnnn`, 0xFFF + 0xFF. -/
theorem exec_pcBound (hpc : s.pc.toNat ≤ 0xFFE) (hstack : ∀ k : Fin 16, (s.stack[k.val]).toNat ≤ 0xFFE) :
    t.pc.toNat ≤ 0x10FE := by
  have hadvance := toNat_add_insnBytes hpc
  cases i with
  | jp nnn => cases h; exact (toNat_absolute_le nnn).trans (by decide)
  | call nnn => rw [pc_of_call h]; exact (toNat_absolute_le nnn).trans (by decide)
  | jpV0 nnn => cases h; exact toNat_indexed_le nnn _
  | ret =>
    obtain ⟨-, hsp, rfl⟩ := exec_ret_eq_next_iff.1 h
    have hentry := hstack ⟨s.sp.val - 1, hsp⟩
    rw [State.jump_pc, toNat_add_insnBytes hentry]
    exact (Nat.add_le_add_right hentry 2).trans (by decide)
  | seImm | sneImm | seReg | sneReg | skp | sknp =>
    cases h
    exact (toNat_skipIf_pc_le hpc _).trans (by omega)
  | ldVxK x => rw [pc_of_ldVxK h]; split <;> omega
  | _ => rw [pc_of_alwaysAdvances h rfl]; omega

/-- The only entry a body writes is the address of a CALL that was fetched. -/
theorem exec_keeps_stackBound (hpc : s.pc.toNat ≤ 0xFFE) (hs : ∀ k : Fin 16, (s.stack[k.val]).toNat ≤ 0xFFE)
    (k : Fin 16) : (t.stack[k.val]).toNat ≤ 0xFFE := by
  cases hi : usesStack i with
  | false =>
    obtain ⟨-, hstack⟩ := exec_keeps_stack h hi
    simpa only [hstack] using hs k
  | true =>
    cases i with
    | call nnn =>
      obtain ⟨hsp, rfl⟩ := exec_call_eq_next_iff.1 h
      simp only [State.jump_stack, Vector.getElem_set]
      split
      · exact hpc
      · exact hs k
    | ret =>
      obtain ⟨-, -, rfl⟩ := exec_ret_eq_next_iff.1 h
      exact hs k
    | _ => cases hi

end

/-- A body that runs from a PC that fetches keeps the invariant. -/
theorem exec_keeps_inv {i : Instr} {s t : State} (h : exec i s = .next t) (hpc : s.pc.toNat ≤ 0xFFE) (hs : Inv s) :
    Inv t where
  memWf := exec_keeps_memWf h hs.memWf
  indexBound := exec_keeps_indexBound h hs.indexBound
  pcBound := exec_pcBound h hpc hs.stackBound
  stackBound := exec_keeps_stackBound h hpc hs.stackBound

theorem tick_keeps_inv {s : State} (hs : Inv s) : Inv s.tick :=
  ⟨hs.memWf, hs.indexBound, hs.pcBound, hs.stackBound⟩

/-- Settles O12: the fetch bounds PC, so the body keeps the invariant, and the tick touches no field of it. -/
theorem stepKeepsTheInvariant : Obligations.StepKeepsTheInvariant := by
  intro s t hs hstep
  obtain ⟨i, u, ⟨-, hpc, -⟩, hu, rfl⟩ := step_eq_next_iff.1 hstep
  exact tick_keeps_inv (exec_keeps_inv hu (Nat.le_of_succ_le_succ hpc) hs)

/-! ### The frame of a jump (R102 to R104) -/

theorem onlyRegsAndPc_jump (s : State) (a : Word) : OnlyRegsAndPc [] s (s.jump a) :=
  ⟨fun _ _ => rfl, rfl, ⟨rfl, rfl⟩, ⟨rfl, rfl⟩, ⟨rfl, rfl⟩, ⟨fun _ => rfl, rfl⟩, ⟨rfl, rfl⟩, rfl⟩

/-- Settles O37: both bodies are a jump, and the targets do not wrap in 16 bits. -/
theorem jumpsReachTheirTargets : Obligations.JumpsReachTheirTargets := fun s nnn =>
  ⟨⟨_, rfl, toNat_absolute nnn, onlyRegsAndPc_jump s _⟩, ⟨_, rfl, toNat_indexed nnn (s.getV 0), onlyRegsAndPc_jump s _⟩⟩

/-- Settles O38: a CALL below the full stack is a push of its own PC and a jump. -/
theorem callPushesItsOwnAddress : Obligations.CallPushesItsOwnAddress := by
  intro s nnn h
  refine ⟨_, exec_call_eq_next_iff.2 ⟨h, rfl⟩, ?_, fun k hk => ?_, rfl, toNat_absolute nnn, onlyRegsAndPc_jump _ _⟩
  · exact Vector.getElem_set_self _
  · exact Vector.getElem_set_ne h k.isLt hk.symm

/-- Settles O39: a RET above the empty stack lowers SP and jumps. -/
theorem retResumesAfterTheStackedAddress : Obligations.RetResumesAfterTheStackedAddress := by
  intro s hpos h
  exact ⟨_, exec_ret_eq_next_iff.2 ⟨hpos, h, rfl⟩, rfl, rfl, rfl, toNat_add_insnBytes, onlyRegsAndPc_jump _ _⟩

/-! ### The round trip (C3) -/

/-- Settles O40: the work in between keeps the entry that the CALL pushed, which is the one the RET names. -/
theorem callAndReturnRoundTrip : Obligations.CallAndReturnRoundTrip := by
  intro s nnn hcall
  obtain ⟨t, ht, hpushed, hothers, hsp, -, -⟩ := callPushesItsOwnAddress s nnn hcall
  refine ⟨t, ht, fun t' hsp' hkept => ?_⟩
  have hdepth : t'.sp.val = s.sp.val + 1 := by rw [hsp', hsp]
  have htop : t'.sp.val - 1 = s.sp.val := by omega
  have hentry : t'.stack[s.sp.val] = s.pc := (hkept ⟨s.sp.val, hcall⟩ (by simp [hsp])).trans hpushed
  obtain ⟨u, hu, husp, hustack, hupc, -⟩ := retResumesAfterTheStackedAddress t' (by omega) (by omega)
  refine ⟨u, hu, ?_, Fin.ext (husp.trans htop), fun k hk => ?_⟩
  · simpa only [htop, hentry] using hupc
  · calc u.stack[k.val]
      _ = t'.stack[k.val] := by rw [hustack]
      _ = t.stack[k.val] := hkept k (by omega)
      _ = s.stack[k.val] := hothers k (Nat.ne_of_lt hk)

/-! ### The idle loop (70_reset_and_hazards R222) -/

theorem tick_of_timers_zero {s : State} (hdt : s.dt = 0) (hst : s.st = 0) : s.tick = s := by
  have hdt' : tickTimer s.dt = s.dt := by rw [hdt]; rfl
  have hst' : tickTimer s.st = s.st := by rw [hst]; rfl
  rw [State.tick, hdt', hst']

/-- A jump to its own address is the tick alone. -/
theorem step_of_self_jump {s : State} {nnn : Addr} (h : NextInstr s (.jp nnn)) (hself : nnn.toNat = s.pc.toNat) :
    step s = .next s.tick := by
  have htarget : absolute nnn = s.pc := BitVec.eq_of_toNat_eq ((toNat_absolute nnn).trans hself)
  have hbody : exec (.jp nnn) s = .next s := congrArg (fun a => Host.Outcome.next (s.jump a)) htarget
  exact step_of_exec_next h hbody

/-- Settles O59: the step is the tick, which at two timers of 0 changes nothing. -/
theorem idleLoopIsAFixedPoint : Obligations.IdleLoopIsAFixedPoint := by
  intro s nnn hnext hself
  have hstep := step_of_self_jump hnext hself
  refine ⟨⟨s.tick, hstep, rfl, tickTimer_toNat s.dt, tickTimer_toNat s.st⟩, fun hdt hst => ?_⟩
  rw [hstep, tick_of_timers_zero hdt hst]

end Sys2Proof.Machine

/-! SUPPORT. Proofs for the statements of the register skips (spec 42_skip): the frame of a skip, the fetch after a skip
from the last address that fetches, and the condition each of the four bodies tests. -/

namespace Sys2Proof.Machine

theorem onlyRegsAndPc_skipIf (s : State) (c : Bool) : OnlyRegsAndPc [] s (s.skipIf c) := by
  rw [State.skipIf_eq]
  exact onlyRegsAndPc_jump s _

/-- Taken or not, a skip at 0xFFE leaves no word to fetch. -/
theorem step_skipIf_of_pc_last {s : State} (halive : s.fatal = none) (hpc : s.pc.toNat = 0xFFE) (c : Bool) :
    step (s.skipIf c) = .fault (.fetchOutOfBounds (s.skipIf c).pc) := by
  have htarget := toNat_skipIf_pc hpc.le (c := c) Iff.rfl
  refine step_of_pc_outOfRange ((State.skipIf_fatal s c).trans halive) ?_
  split at htarget <;> omega

/-- Settles O41: each of the four bodies is a skip on a bit that decides its comparison; the rest holds of any skip. -/
theorem registerSkipsCompareForEquality : Obligations.RegisterSkipsCompareForEquality := by
  intro s x y nn hpc i c hi
  have hbody : ∃ b : Bool, exec i s = .next (s.skipIf b) ∧ (b = true ↔ c) := by
    obtain ⟨rfl, rfl⟩ | ⟨rfl, rfl⟩ | ⟨rfl, rfl⟩ | ⟨rfl, rfl⟩ := hi
    · exact ⟨s.getV x == nn, rfl, beq_iff_eq⟩
    · exact ⟨s.getV x != nn, rfl, bne_iff_ne⟩
    · exact ⟨s.getV x == s.getV y, rfl, beq_iff_eq⟩
    · exact ⟨s.getV x != s.getV y, rfl, bne_iff_ne⟩
  obtain ⟨b, hexec, hb⟩ := hbody
  have htarget := toNat_skipIf_pc hpc (c := b) Iff.rfl
  refine ⟨s.skipIf b, hexec, fun hc => ?_, fun hc => ?_, onlyRegsAndPc_skipIf s b,
    fun halive hlast => step_skipIf_of_pc_last halive hlast b⟩
  · rw [htarget, if_pos (hb.2 hc)]
  · rw [htarget, if_neg (mt hb.1 hc)]

end Sys2Proof.Machine

/-! SUPPORT. Proofs for the statements of arithmetic (spec 43_alu): the frame of a body that writes one register, or a
result and the flag, and the flags as numbers. -/

namespace Sys2Proof.Machine

/-! ### Bodies that write one register, or a result and the flag -/

theorem advancesByTwo_of_pc {s t : State} (h : t.pc = s.pc + insnBytes) : AdvancesByTwo s t :=
  fun hpc => h ▸ toNat_add_insnBytes hpc

theorem onlyRegsAndPc_setV_advance (s : State) (x : Reg) (b : Byte) : OnlyRegsAndPc [x] s (s.setV x b).advance :=
  ⟨fun _ hr => s.getV_setV_of_ne b (List.ne_of_not_mem_cons hr),
    rfl, ⟨rfl, rfl⟩, ⟨rfl, rfl⟩, ⟨rfl, rfl⟩, ⟨fun _ => rfl, rfl⟩, ⟨rfl, rfl⟩, rfl⟩

theorem onlyRegsAndPc_setResultAndFlag_advance (s : State) (x : Reg) (b f : Byte) :
    OnlyRegsAndPc [x, vf] s (s.setResultAndFlag x b f).advance := by
  refine ⟨fun r hr => ?_, rfl, ⟨rfl, rfl⟩, ⟨rfl, rfl⟩, ⟨rfl, rfl⟩, ⟨fun _ => rfl, rfl⟩, ⟨rfl, rfl⟩, rfl⟩
  obtain ⟨hx, hf⟩ : r ≠ x ∧ r ≠ vf := by simpa using hr
  rw [State.advance_getV, State.getV_setResultAndFlag, if_neg hf, if_neg hx]

/-- A row of the table of R132 for a destination other than VF: the result and the flag, as numbers, and the frame. -/
theorem exec_resultAndFlag {s : State} {i : Instr} {x : Reg} {b f : Byte} {result flag : Nat}
    (hexec : exec i s = .next (s.setResultAndFlag x b f).advance) (hx : x ≠ vf)
    (hb : b.toNat = result) (hf : f.toNat = flag) :
    ∃ t, exec i s = .next t ∧ (t.getV x).toNat = result ∧ (t.getV vf).toNat = flag ∧
      AdvancesByTwo s t ∧ OnlyRegsAndPc [x, vf] s t := by
  refine ⟨_, hexec, ?_, ?_, advancesByTwo_of_pc rfl, onlyRegsAndPc_setResultAndFlag_advance s x b f⟩
  · rw [State.advance_getV, State.getV_setResultAndFlag, if_neg hx, if_pos rfl, hb]
  · rw [State.advance_getV, State.getV_setResultAndFlag, if_pos rfl, hf]

/-- Settles O42: both bodies write one register and advance. -/
theorem loadImmediateAndCopy : Obligations.LoadImmediateAndCopy := fun s x y nn =>
  ⟨⟨_, rfl, s.getV_setV_self x nn, rfl, onlyRegsAndPc_setV_advance s x nn⟩,
    ⟨_, rfl, s.getV_setV_self x (s.getV y), rfl, onlyRegsAndPc_setV_advance s x _⟩⟩

/-! ### Results and flags as numbers (R132) -/

theorem toNat_carryFlag (a b : Byte) : (carryFlag a b).toNat = if a.toNat + b.toNat > 255 then 1 else 0 := by
  simp only [carryFlag, toNat_flagBit, decide_eq_true_eq]

theorem toNat_noBorrowFlag (a b : Byte) : (noBorrowFlag a b).toNat = if a.toNat ≥ b.toNat then 1 else 0 := by
  simp only [noBorrowFlag, toNat_flagBit, decide_eq_true_eq]

theorem toNat_shiftRightFlag (a : Byte) : (shiftRightFlag a).toNat = a.toNat % 2 := by
  simp only [shiftRightFlag, BitVec.toNat_ofNat]
  omega

/-- The flag of a left shift is bit 7 where it stands. -/
theorem toNat_shiftLeftFlag (a : Byte) : (shiftLeftFlag a).toNat = if a.toNat ≥ 0x80 then 0x80 else 0 := by
  have hbit : (shiftLeftFlag a).toNat = a.toNat / 2 ^ 7 % 2 * 2 ^ 7 := by
    rw [← Nat.toNat_testBit, ← Nat.and_two_pow]
    exact BitVec.toNat_and a 0x80#8
  have := a.isLt
  split <;> omega

theorem toNat_byte_sub (a b : Byte) : (a - b).toNat = (a.toNat + 256 - b.toNat) % 256 := by
  bv_omega

/-- Settles O44, row by row: each row is the number its result has and the number its flag has; the row of Fx1E is the
one R141 gives. -/
theorem arithmeticAndItsFlags : Obligations.ArithmeticAndItsFlags := by
  intro s x y nn
  refine ⟨?addImm, fun hx => ⟨?addReg, ?subReg, ?subnReg, ?shr, ?shl⟩, ?addI⟩
  case addImm =>
    refine ⟨_, rfl, ?_, advancesByTwo_of_pc rfl, onlyRegsAndPc_setV_advance s x _⟩
    rw [State.advance_getV, State.getV_setV_self, BitVec.toNat_add]
  case addReg => exact exec_resultAndFlag rfl hx (BitVec.toNat_add _ _) (toNat_carryFlag _ _)
  case subReg => exact exec_resultAndFlag rfl hx (toNat_byte_sub _ _) (toNat_noBorrowFlag _ _)
  case subnReg => exact exec_resultAndFlag rfl hx (toNat_byte_sub _ _) (toNat_noBorrowFlag _ _)
  case shr =>
    have hresult : (s.getV x >>> 1).toNat = (s.getV x).toNat / 2 := by
      rw [BitVec.toNat_ushiftRight, Nat.shiftRight_one]
    exact exec_resultAndFlag rfl hx hresult (toNat_shiftRightFlag _)
  case shl =>
    have hresult : (s.getV x <<< 1).toNat = (s.getV x).toNat * 2 % 256 := by
      rw [BitVec.toNat_shiftLeft, Nat.shiftLeft_eq, pow_one]
    exact exec_resultAndFlag rfl hx hresult (toNat_shiftLeftFlag _)
  case addI =>
    obtain ⟨⟨t, hexec, hi, -, hflag, hpc, hframe⟩, -⟩ := addToIndexWritesIndexFlagAndSoundTimer s x
    exact ⟨t, hexec, hi, hflag, advancesByTwo_of_pc hpc, hframe⟩

/-! ### The random byte (R133) -/

/-- Settles O46: the body writes the AND of the random byte and nn, and the draw commutes with the write. -/
theorem randomByteIsMasked : Obligations.RandomByteIsMasked := by
  intro s x nn
  have hbit : ∀ k, ((s.setV x (s.rndByte &&& nn)).drawn.advance.getV x).getLsbD k =
      ((Config.randomByte s.draws).getLsbD k && nn.getLsbD k) := by
    intro k
    rw [State.advance_getV, State.drawn_getV, State.getV_setV_self, BitVec.getLsbD_and, State.rndByte]
  refine ⟨_, rfl, hbit, fun k hk => ?_, rfl, onlyRegsAndPc_setV_advance s.drawn x _⟩
  rw [hbit, hk, Bool.and_false]

end Sys2Proof.Machine

/-! SUPPORT. Proofs for the statements of the index register and memory (spec 44_index_memory): what the bodies that
store leave in memory, said once for both of them, the fetch of a stored byte, and the loads of registers and of I. -/

namespace Sys2Proof.Machine

/-! ### The bodies that store (R144, R145) -/

/-- Both bodies that store put their bytes at ascending addresses from I, inside the checked range, and advance. -/
theorem exec_eq_withDataRange_storeBytes {i : Instr} (s : State) (hi : storesToMemory i = true) :
    exec i s = withDataRange s (storedBytes i s).length (s.storeBytes s.i.toNat (storedBytes i s)).advance := by
  cases i with
  | ldB x => rfl
  | storeRegs x =>
    rw [storedBytes, State.length_firstRegs]
    rfl
  | _ => cases hi

theorem storesToMemory_of_lt_length {i : Instr} {s : State} {k : Nat} (hk : k < (storedBytes i s).length) :
    storesToMemory i = true := by
  cases i with
  | ldB x | storeRegs x => rfl
  | _ => exact absurd hk (Nat.not_lt_zero k)

/-- In a memory in canonical form, each byte that a completed body stored is read back. -/
theorem readByte_of_exec_stored {i : Instr} {s t : State} {k : Nat} (hm : s.mem.wf = true) (h : exec i s = .next t)
    (hk : k < (storedBytes i s).length) : t.readByte (s.i.toNat + k) = (storedBytes i s)[k] := by
  rw [exec_eq_withDataRange_storeBytes s (storesToMemory_of_lt_length hk)] at h
  obtain ⟨hrange, rfl⟩ := withDataRange_eq_next_iff.1 h
  exact Memory.read_writeBytes_inside hm (hrange.resolve_left (Nat.ne_zero_of_lt hk)) k hk

/-- A body that stores completes when its addresses exist: its bytes are read back, and every other byte, the registers
and I are kept. -/
theorem exec_storesToMemory {i : Instr} {s : State} (hi : storesToMemory i = true)
    (hrange : s.i.toNat + (storedBytes i s).length ≤ 4096) : ∃ t, exec i s = .next t ∧
      (s.mem.wf = true → ∀ (k : Nat) (hk : k < (storedBytes i s).length),
        t.readByte (s.i.toNat + k) = (storedBytes i s)[k]) ∧
      (∀ a, a < s.i.toNat ∨ s.i.toNat + (storedBytes i s).length ≤ a → t.readByte a = s.readByte a) ∧
      t.mem.font = s.mem.font ∧ t.pc = s.pc + insnBytes ∧ OnlyRegsAndPc [] { s with mem := t.mem } t := by
  have h := (exec_eq_withDataRange_storeBytes s hi).trans (withDataRange_of_inRange _ (.inr hrange))
  exact ⟨_, h, fun hm _ hk => readByte_of_exec_stored hm h hk, fun a => Memory.read_writeBytes_outside s.mem _ a _,
    exec_keeps_font h, rfl, onlyRegsAndPc_jump (s.storeBytes _ _) _⟩

@[simp] theorem length_bcdDigits (b : Byte) : (bcdDigits b).length = 3 := rfl

theorem toNat_bcdDigits (b : Byte) :
    (bcdDigits b)[0].toNat = b.toNat / 100 ∧ (bcdDigits b)[1].toNat = b.toNat / 10 % 10 ∧
      (bcdDigits b)[2].toNat = b.toNat % 10 := by
  have := b.isLt
  simp only [bcdDigits, List.getElem_cons_zero, List.getElem_cons_succ, BitVec.toNat_ofNat]
  omega

/-- Settles O49: the three bytes stored are the digits, none of which wraps in a byte. -/
theorem bcdStoresThreeDigits : Obligations.BcdStoresThreeDigits := by
  intro s x hrange
  have hlen : (storedBytes (.ldB x) s).length = 3 := rfl
  obtain ⟨t, hexec, hread, hframe⟩ := exec_storesToMemory (s := s) (i := .ldB x) rfl (by omega)
  obtain ⟨hundreds, tens, ones⟩ := toNat_bcdDigits (s.getV x)
  refine ⟨t, hexec, fun hm => ⟨?_, ?_, ?_⟩, hframe⟩
  · exact (congrArg BitVec.toNat (hread hm 0 (by omega))).trans hundreds
  · exact (congrArg BitVec.toNat (hread hm 1 (by omega))).trans tens
  · exact (congrArg BitVec.toNat (hread hm 2 (by omega))).trans ones

/-- Settles O50: byte k of the block stored is Vk. -/
theorem bulkStoreCopiesRegistersToMemory : Obligations.BulkStoreCopiesRegistersToMemory := by
  intro s x hrange
  have hlen : (storedBytes (.storeRegs x) s).length = x.val + 1 := s.length_firstRegs x
  obtain ⟨t, hexec, hread, houtside, hframe⟩ := exec_storesToMemory (s := s) (i := .storeRegs x) rfl (by omega)
  refine ⟨t, hexec, fun hm k hk => ?_, by rwa [hlen] at houtside, hframe⟩
  have hlt : k.val < (storedBytes (.storeRegs x) s).length := hlen ▸ Nat.lt_succ_of_le hk
  exact (hread hm k.val hlt).trans (s.getElem_firstRegs x k hk)

/-! ### The fetch of a stored byte (20_memory R51, R63) -/

/-- The high byte of the word at PC is the byte at PC. -/
theorem toNat_wordAtPc_div (s : State) : (wordAtPc s).toNat / 256 = (s.readByte s.pc.toNat).toNat := by
  have := (s.readByte (s.pc.toNat + 1)).isLt
  rw [toNat_wordAtPc]
  omega

/-- The low byte of the word at PC is the byte after it. -/
theorem toNat_wordAtPc_mod (s : State) : (wordAtPc s).toNat % 256 = (s.readByte (s.pc.toNat + 1)).toNat := by
  have := (s.readByte (s.pc.toNat + 1)).isLt
  rw [toNat_wordAtPc]
  omega

/-- Settles O30: the byte is read back from the memory the body left, and a fetch takes the byte at PC as the high and
the next one as the low byte of its word. -/
theorem storedBytesAreFetched : Obligations.StoredBytesAreFetched := by
  intro s t u i k hk hm hexec hmem hpc
  have hread : u.readByte (s.i.toNat + k) = (storedBytes i s)[k] := by
    rw [State.readByte, hmem]
    exact readByte_of_exec_stored hm hexec hk
  refine ⟨fun hhigh => ⟨wordAtPc u, fetchWord_of_inRange hpc, ?_⟩,
    fun hlow => ⟨wordAtPc u, fetchWord_of_inRange hpc, ?_⟩⟩
  · rw [toNat_wordAtPc_div, hhigh, hread]
  · rw [toNat_wordAtPc_mod, hlow, hread]

/-! ### The bulk load (R146) -/

/-- Whatever the register file becomes, writing it and advancing changes nothing but registers and PC. -/
theorem onlyRegsAndPc_withRegs_advance {s : State} {regs : Vector Byte 16} {written : List Reg}
    (h : KeepsRegsBut written s { s with v := regs }) :
    OnlyRegsAndPc written s ({ s with v := regs } : State).advance :=
  ⟨h, rfl, ⟨rfl, rfl⟩, ⟨rfl, rfl⟩, ⟨rfl, rfl⟩, ⟨fun _ => rfl, rfl⟩, ⟨rfl, rfl⟩, rfl⟩

theorem onlyRegsAndPc_loadV_advance (s : State) (x : Reg) (bytes : Nat → Byte) :
    OnlyRegsAndPc ((List.finRange 16).filter (fun k => k ≤ x)) s (s.loadV x bytes).advance := by
  refine onlyRegsAndPc_withRegs_advance fun r hr => ?_
  have hx : ¬ r ≤ x := by simpa using hr
  exact (s.getV_loadV x r bytes).trans (if_neg hx)

/-- Settles O51: the body completes with the registers of a bulk load, those up to x read from memory. -/
theorem bulkLoadCopiesMemoryToRegisters : Obligations.BulkLoadCopiesMemoryToRegisters := by
  intro s x hrange
  have hexec : exec (.loadRegs x) s = .next (s.loadV x (fun k => s.readByte (s.i.toNat + k))).advance :=
    withDataRange_of_inRange _ (.inr (Nat.succ_le_succ hrange))
  refine ⟨_, hexec, fun k hk => ?_, fun k hk => ?_, pc_of_alwaysAdvances hexec rfl, onlyRegsAndPc_loadV_advance s x _⟩
  · rw [State.advance_getV, State.getV_loadV, if_pos hk]
  · rw [State.advance_getV, State.getV_loadV, if_neg (not_le.2 hk)]

/-! ### The loads of I (R140, R142) -/

theorem val_lowNibble (b : Byte) : (lowNibble b).val = b.toNat % 16 := by
  simp [lowNibble]

/-- A glyph's address does not wrap in 16 bits. -/
theorem toNat_glyphAddress (b : Byte) : (glyphAddress b).toNat = 0x050 + 5 * (b.toNat % 16) := by
  simp only [glyphAddress, fontBase, glyphSize, BitVec.toNat_ofNat, val_lowNibble]
  omega

/-- Settles O47: both bodies set I and advance, and neither address wraps. -/
theorem indexIsLoaded : Obligations.IndexIsLoaded := fun s x nnn =>
  ⟨⟨_, rfl, toNat_absolute nnn, rfl, onlyRegsAndPc_jump (s.setI _) _⟩,
    ⟨_, rfl, toNat_glyphAddress (s.getV x), rfl, onlyRegsAndPc_jump (s.setI _) _⟩⟩

end Sys2Proof.Machine

/-! SUPPORT. Proofs for the statements of the display (spec 45_display): the cells under a sprite by the formula of
R151, what a draw leaves in each cell and in VF, and a second draw of the same sprite from what one draw does. -/

namespace Sys2Proof.Machine

/-! ### Clearing (R150) -/

theorem cell_replicate_zero (c : CellIndex) : cell (Vector.replicate 32 0) c = false := by
  simp [cell]

/-- Settles O52: the body sets a picture of zero rows and advances. -/
theorem clearBlanksTheDisplay : Obligations.ClearBlanksTheDisplay := fun s =>
  ⟨_, rfl, cell_replicate_zero, rfl, rfl, onlyRegsAndPc_jump (s.setPicture _) _⟩

/-! ### One draw (R151) -/

section

variable (s : State) (x y : Reg) (n : Nibble)

/-- The cells that the body XORs are those of the spec's formula. -/
theorem mem_spriteCells_iff_covers (c : CellIndex) :
    c ∈ spriteCells (s.getV x) (s.getV y) n.toNat (fun r => s.readByte (s.i.toNat + r)) ↔ covers s x y n c := by
  simp only [mem_spriteCells, covers, cellAt, Fin.ext_iff, Fin.val_ofNat]

theorem nodup_drawnCells :
    (spriteCells (s.getV x) (s.getV y) n.toNat (fun r => s.readByte (s.i.toNat + r))).Nodup :=
  nodup_spriteCells _ _ (Nat.le_of_lt_succ n.isLt) _

theorem cell_pictureAfterDraw_of_covers {c : CellIndex} (h : covers s x y n c) :
    cell (pictureAfterDraw s x y n).1 c = !(cell s.disp c) := by
  rw [pictureAfterDraw, cell_xorCells _ (nodup_drawnCells s x y n), if_pos ((mem_spriteCells_iff_covers ..).2 h)]

theorem cell_pictureAfterDraw_of_not_covers {c : CellIndex} (h : ¬ covers s x y n c) :
    cell (pictureAfterDraw s x y n).1 c = cell s.disp c := by
  rw [pictureAfterDraw, cell_xorCells _ (nodup_drawnCells s x y n), if_neg (mt (mem_spriteCells_iff_covers ..).1 h)]

/-- A draw collides exactly when a covered cell was set. -/
theorem hit_pictureAfterDraw_iff :
    (pictureAfterDraw s x y n).2 = true ↔ ∃ c, covers s x y n c ∧ cell s.disp c = true := by
  rw [pictureAfterDraw, hit_xorCells _ (nodup_drawnCells s x y n), List.any_eq_true]
  exact exists_congr fun c => and_congr_left' (mem_spriteCells_iff_covers s x y n c)

end

/-- Settles O53: a draw whose bytes exist sets the picture after the draw, writes the collision to VF and advances. -/
theorem drawXorsExactlyTheSpriteCells : Obligations.DrawXorsExactlyTheSpriteCells := by
  intro s x y n hrange
  refine ⟨_, withDataRange_of_inRange _ (by omega), fun c => cell_pictureAfterDraw_of_covers s x y n,
    fun c => cell_pictureAfterDraw_of_not_covers s x y n, fun hset => ?_, fun hclear => ?_, rfl, rfl,
    onlyRegsAndPc_setV_advance (s.setPicture _) vf _⟩
  · have hhit := (hit_pictureAfterDraw_iff s x y n).2 hset
    rw [State.advance_getV, State.getV_setV_self, hhit]
    rfl
  · have hmiss : (pictureAfterDraw s x y n).2 = false := by
      rw [Bool.eq_false_iff, Ne, hit_pictureAfterDraw_iff]
      rintro ⟨c, hc, hset⟩
      simp [hclear c hc] at hset
    rw [State.advance_getV, State.getV_setV_self, hmiss]
    rfl

/-! ### The same sprite again (R153) -/

/-- Which cells a sprite covers depends on the two coordinates, I and memory alone. -/
theorem covers_congr {s t : State} {x y : Reg} (hx : t.getV x = s.getV x) (hy : t.getV y = s.getV y)
    (hi : t.i = s.i) (hmem : ∀ a, t.readByte a = s.readByte a) (n : Nibble) (c : CellIndex) :
    covers t x y n c ↔ covers s x y n c := by
  simp only [covers, hx, hy, hi, hmem]

/-- Settles O54: the first draw keeps what the covered cells depend on, so the second flips the same cells back, and
the cells it finds set are those the first one raised. -/
theorem drawingTwiceRestoresThePicture : Obligations.DrawingTwiceRestoresThePicture := by
  intro s x y n hx hy hrange
  obtain ⟨t, ht, hflip, hkeep, -, -, -, -, hregs, hi, -, -, -, ⟨hmem, -⟩, -⟩ :=
    drawXorsExactlyTheSpriteCells s x y n hrange
  obtain ⟨u, hu, hflip', hkeep', hcollide, hfree, -⟩ := drawXorsExactlyTheSpriteCells t x y n (by rwa [hi])
  have hcovers : ∀ c, covers t x y n c ↔ covers s x y n c :=
    covers_congr (hregs x (by simpa using hx)) (hregs y (by simpa using hy)) hi hmem n
  have hpicture : u.disp = s.disp := display_ext fun c => by
    by_cases hc : covers s x y n c
    · rw [hflip' c ((hcovers c).2 hc), hflip c hc, Bool.not_not]
    · rw [hkeep' c (mt (hcovers c).1 hc), hkeep c hc]
  refine ⟨t, u, ht, hu, hpicture, ?_⟩
  by_cases hraised : ∃ c, covers s x y n c ∧ cell s.disp c = false
  · obtain ⟨c, hc, hclear⟩ := hraised
    have hvf : u.getV vf = 1 := hcollide ⟨c, (hcovers c).2 hc, by rw [hflip c hc, hclear, Bool.not_false]⟩
    exact ⟨iff_of_true hvf ⟨c, hc, hclear⟩, .inl hvf⟩
  · have hvf : u.getV vf = 0 := hfree fun c hcovered => by
      have hc := (hcovers c).1 hcovered
      have hset : cell s.disp c = true := Bool.eq_true_of_not_eq_false fun hclear => hraised ⟨c, hc, hclear⟩
      rw [hflip c hc, hset, Bool.not_true]
    exact ⟨iff_of_false (by simp [hvf]) hraised, .inr hvf⟩

end Sys2Proof.Machine

/-! SUPPORT. Proofs for the statements of keys and timers (spec 46_keys_timers): the key skips, the wait for the least
pressed key, the moves of the timers, and the two fields that bodies carry through unread, ST and the draw counter. -/

namespace Sys2Proof.Machine

/-! ### The key skips (R160, R161, R166) -/

/-- The two targets of a skip, each as one sum. -/
theorem skipIf_pc_eq (s : State) (c : Bool) : (s.skipIf c).pc = if c = true then s.pc + 4#16 else s.pc + 2#16 := by
  rw [State.skipIf_pc, BitVec.add_assoc]
  rfl

/-- Settles O55: each body is a skip on the flag of the selected key, Ex9E on the flag itself and ExA1 on its negation. -/
theorem keySkipsTestTheSelectedKey : Obligations.KeySkipsTestTheSelectedKey := by
  intro s x k hk
  obtain rfl : k = lowNibble (s.getV x) := Fin.ext (hk.trans (val_lowNibble _).symm)
  refine ⟨⟨_, rfl, skipIf_pc_eq s _, onlyRegsAndPc_skipIf s _⟩, ⟨_, rfl, ?_, onlyRegsAndPc_skipIf s _⟩⟩
  rw [skipIf_pc_eq, ← ite_not]
  simp only [Bool.not_eq_true', Bool.not_eq_false]

/-! ### The wait for a key (R163) -/

/-- The search from key 0 on stops at a key exactly when it is pressed and no lesser one is. -/
theorem leastKey_eq_some_iff {s : State} {k : Key} :
    leastKey s = some k ↔ s.keyDown k = true ∧ ∀ j, j < k → s.keyDown j = false := by
  rw [leastKey, List.find?_eq_some_iff_getElem]
  refine and_congr_right fun _ => ⟨?_, fun hleast => ⟨k.val, by simp, by simp, fun j hj => ?_⟩⟩
  · rintro ⟨n, hn, hk, hleast⟩ j hj
    obtain rfl : k.val = n := by simp [← hk]
    simpa using hleast j.val hj
  · simpa using hleast ⟨j, hj.trans k.isLt⟩ hj

theorem leastKey_eq_none_iff {s : State} : leastKey s = none ↔ ∀ k, s.keyDown k = false := by
  simp [leastKey]

theorem toNat_keyByte (k : Key) : (keyByte k).toNat = k.val := by
  have := k.isLt
  simp only [keyByte, BitVec.toNat_ofNat]
  omega

theorem exec_ldVxK_of_leastKey {s : State} {k : Key} (x : Reg) (h : leastKey s = some k) :
    exec (.ldVxK x) s = .next (s.setV x (keyByte k)).advance := by
  simp only [exec, execLdVxK, h]

theorem exec_ldVxK_of_noKey {s : State} (x : Reg) (h : leastKey s = none) : exec (.ldVxK x) s = .next s := by
  simp only [exec, execLdVxK, h]

/-- Settles O56: the search decides which of the two bodies runs, and the step of the waiting one is the tick alone. -/
theorem waitForKeyTakesTheLeastPressedKey : Obligations.WaitForKeyTakesTheLeastPressedKey := by
  intro s x
  refine ⟨fun k hk hleast => ?_, fun hnone => ?_⟩
  · refine ⟨_, exec_ldVxK_of_leastKey x (leastKey_eq_some_iff.2 ⟨hk, hleast⟩), ?_, rfl,
      onlyRegsAndPc_setV_advance s x _⟩
    rw [State.advance_getV, State.getV_setV_self, toNat_keyByte]
  · have hwait := exec_ldVxK_of_noKey x (leastKey_eq_none_iff.2 hnone)
    exact ⟨hwait, fun hnext =>
      ⟨s.tick, step_of_exec_next hnext hwait, rfl, tickTimer_toNat s.dt, tickTimer_toNat s.st⟩⟩

/-! ### The moves of the timers (R162, R164, R165) -/

/-- Settles O57: Fx07 is a register write and an advance, the other two are an advance of the state with its timer set. -/
theorem timersAreReadAndSet : Obligations.TimersAreReadAndSet := fun s x =>
  ⟨⟨_, rfl, State.getV_setV_self s x s.dt, rfl, onlyRegsAndPc_setV_advance s x _⟩,
    ⟨_, rfl, rfl, rfl, onlyRegsAndPc_jump (s.setDT _) _⟩,
    ⟨_, rfl, rfl, rfl, onlyRegsAndPc_jump (s.setST _) _⟩⟩

/-! ### ST and the draw counter are not read (R165; 40_step_cycle R97) -/

/-- The state with ST and the draw counter mapped; a map that is `id` leaves its field alone, and a constant map
overwrites it. -/
def State.mapUnread (s : State) (f : Byte → Byte) (g : Nat → Nat) : State := { s with st := f s.st, draws := g s.draws }

section

variable (s : State) (f : Byte → Byte) (g : Nat → Nat)

@[simp] theorem State.mapUnread_pc : (s.mapUnread f g).pc = s.pc := rfl

theorem pop_mapUnread : (s.mapUnread f g).pop = s.pop.map (Prod.map id (·.mapUnread f g)) := by
  by_cases h : 0 < s.sp.val <;> simp [State.pop, State.mapUnread, h]

theorem push_mapUnread (a : Word) : (s.mapUnread f g).push a = (s.push a).map (·.mapUnread f g) := by
  by_cases h : s.sp.val < 16 <;> simp [State.push, State.mapUnread, h]

theorem skipIf_mapUnread (c : Bool) : (s.mapUnread f g).skipIf c = (s.skipIf c).mapUnread f g := by
  cases c <;> rfl

theorem leastKey_mapUnread : leastKey (s.mapUnread f g) = leastKey s := rfl

/-- A body carries both fields through unread, but for a writer of ST, which forgets the old ST, and Cxnn, which reads
the counter. -/
theorem exec_mapUnread {i : Instr} (hst : writesST i = true → f = id) (hdraws : drawsRandom i = true → g = id) :
    exec i (s.mapUnread f g) = andThen (exec i s) (·.mapUnread f g) := by
  cases i with
  | rnd x nn =>
    obtain rfl := hdraws rfl
    rfl
  | ldSTVx x | addI x =>
    obtain rfl := hst rfl
    rfl
  | ret =>
    simp only [exec, execRet, pop_mapUnread]
    cases s.pop <;> rfl
  | call nnn =>
    simp only [exec, execCall, push_mapUnread, State.mapUnread_pc]
    cases s.push s.pc <;> rfl
  | seImm x nn | sneImm x nn | seReg x y | sneReg x y | skp x | sknp x =>
    exact congrArg Host.Outcome.next (skipIf_mapUnread s f g _)
  | ldVxK x =>
    simp only [exec, execLdVxK, leastKey_mapUnread]
    cases leastKey s <;> rfl
  | drw x y n | ldB x | storeRegs x | loadRegs x =>
    simp only [exec, execDrw, execLdB, execStoreRegs, execLoadRegs, andThen_withDataRange]
    rfl
  | _ => rfl

end

/-- Fx18 and Fx1E overwrite ST, so nothing of the old ST is left. -/
theorem exec_withST_of_writesST {i : Instr} (s : State) (b : Byte) (hi : writesST i = true) :
    exec i { s with st := b } = exec i s := by
  cases i with
  | ldSTVx x | addI x => rfl
  | _ => cases hi

/-- Settles O19: a body that writes ST answers the same from any ST, and every other body carries ST through; every
body but that of Cxnn carries the draw counter through. -/
theorem soundTimerAndRandomByteAreNotReadElsewhere : Obligations.SoundTimerAndRandomByteAreNotReadElsewhere := by
  refine ⟨fun i s b => ?_, fun i s d hi => ?_⟩
  · cases hi : writesST i with
    | true => exact congrArg (andThen · _) (exec_withST_of_writesST s b hi)
    | false =>
      have hcarried : exec i { s with st := b } = andThen (exec i s) (fun t => { t with st := b }) :=
        exec_mapUnread s (fun _ => b) id (by simp [hi]) fun _ => rfl
      exact (congrArg (andThen · _) hcarried).trans (andThen_andThen _ _ _)
  · exact exec_mapUnread s id (fun _ => d) (fun _ => rfl) (by simp [hi])

end Sys2Proof.Machine

/-! SUPPORT. Proofs for the statements of the host interface (spec 50_host_interface): the invariant after Construct and
after each host operation, and what Load, SetKey and ConsumeFrame answer on a machine that is alive. -/

namespace Sys2Proof.Machine

/-! ### The invariant at the host's operations (R171, R172, R175, R177) -/

theorem storeBytes_keeps_inv {s : State} (a : Nat) (bytes : List Byte) (hs : Inv s) : Inv (s.storeBytes a bytes) :=
  ⟨Memory.wf_writeBytes a bytes hs.memWf, hs.indexBound, hs.pcBound, hs.stackBound⟩

theorem setKeys_keeps_inv {s : State} (keys : Vector Bool 16) (hs : Inv s) : Inv { s with key := keys } :=
  ⟨hs.memWf, hs.indexBound, hs.pcBound, hs.stackBound⟩

theorem withDirty_keeps_inv {s : State} (b : Bool) (hs : Inv s) : Inv (s.withDirty b) :=
  ⟨hs.memWf, hs.indexBound, hs.pcBound, hs.stackBound⟩

/-- Settles O14: what each operation does to the state, if it does anything, is one change that keeps the invariant. -/
theorem hostOperationsKeepTheInvariant : Obligations.HostOperationsKeepTheInvariant := by
  refine ⟨?_, ?_, ?_⟩
  · intro s t image r hs h
    obtain ⟨-, h⟩ := loadImage_eq_next_iff.1 h
    split at h <;> cases h
    · exact storeBytes_keeps_inv _ _ hs
    · exact hs
  · intro s t index pressed hs h
    obtain ⟨-, -, rfl⟩ := setKey_eq_next_iff.1 h
    exact setKeys_keeps_inv _ hs
  · intro s t frame hs h
    obtain ⟨-, h⟩ := consumeFrame_eq_next_iff.1 h
    split at h <;> cases h
    · exact withDirty_keeps_inv false hs
    · exact hs

/-- Construct lists no cell and starts at 0x200, so the bounds on RESET are all that is left. -/
theorem inv_construct {reset : ResetParams} (font : Font) (h : reset.InBounds) : Inv (State.construct reset font) where
  memWf := Memory.wf_initial font
  indexBound := h.1
  pcBound := show (0x200 : Nat) ≤ 0x10FE by decide
  stackBound := h.2

theorem inBounds_defaultReset : defaultReset.InBounds :=
  ⟨Nat.zero_le _, fun k => by simp [defaultReset, resetStack]⟩

/-- Settles O13: the default RESET is inside the bounds, and State.reset is Construct with it. -/
theorem resetMeetsTheInvariant : Obligations.ResetMeetsTheInvariant :=
  ⟨fun _ font => inv_construct font, inBounds_defaultReset, inv_construct defaultFont inBounds_defaultReset⟩

/-! ### What the operations answer on a machine that is alive (R173, R175 to R177) -/

/-- Settles O32: no image longer than 3583 bytes is stored. -/
theorem oversizedImageIsRejected : Obligations.OversizedImageIsRejected := fun _ _ halive hlen =>
  loadImage_eq_next_iff.2 ⟨halive, (if_neg (Nat.not_le.2 hlen)).symm⟩

/-- Settles O33: by O15 the flag is set, the others are left and no step writes any; the frame is the one field that
SetKey replaces. -/
theorem setKeyWritesOneFlag : Obligations.SetKeyWritesOneFlag := by
  intro index pressed s halive
  obtain ⟨-, hrun, hset⟩ := keysChangeOnlyBySetKey
  obtain ⟨t, ht, hflag, hothers⟩ := hset index pressed s halive
  refine ⟨t, ht, hflag, hothers, ?_, fun n u hu => ?_⟩
  · obtain ⟨-, -, rfl⟩ := setKey_eq_next_iff.1 ht
    rfl
  · simpa only [State.keyDown, hrun n t u hu] using hflag

theorem setKey_of_index_outOfRange {index : Nat} {s : State} (pressed : Bool) (halive : s.fatal = none)
    (hindex : index ≥ 16) : setKey index pressed s = .fault (.keyIndexOutOfRange index) := by
  simp [setKey, whenAlive, halive, Nat.not_lt.2 hindex, raiseFatal]

/-- Settles O34: SetKey raises the fatal, and entering a fatal changes nothing but FATAL. -/
theorem setKeyBeyondFifteenIsFatal : Obligations.SetKeyBeyondFifteenIsFatal := by
  intro index pressed s halive hindex
  have hfault := setKey_of_index_outOfRange pressed halive hindex
  exact ⟨hfault, by rw [hfault]; rfl⟩

theorem consumeFrame_of_dirty {s : State} (halive : s.fatal = none) (hdirty : s.dirty = true) :
    consumeFrame s = .next (some s.disp, { s with dirty := false }) :=
  consumeFrame_eq_next_iff.2 ⟨halive, (if_pos hdirty).symm⟩

theorem consumeFrame_of_clean {s : State} (halive : s.fatal = none) (hclean : s.dirty = false) :
    consumeFrame s = .next (none, s) :=
  consumeFrame_eq_next_iff.2 ⟨halive, (if_neg (ne_true_of_eq_false hclean)).symm⟩

/-- Settles O35: the state a ConsumeFrame of a dirty buffer leaves is clean, so a second one finds no new frame. -/
theorem consumeFrameReadsAndClears : Obligations.ConsumeFrameReadsAndClears := fun _ halive =>
  ⟨fun hdirty => ⟨_, consumeFrame_of_dirty halive hdirty, rfl, consumeFrame_of_clean halive rfl⟩,
    consumeFrame_of_clean halive⟩

end Sys2Proof.Machine

/-! SUPPORT. Proofs for the remaining statements of encoding (spec 30_encoding): the decoder as an inverse, the encoder's
words, and the illegal words family by family. -/

namespace Sys2Proof.Machine

/-! ### The decoder answers exactly the word's instruction (R74) -/

/-- A word of an instruction's row decodes to the instruction whose operands are its fields. -/
theorem decode_of_isWordOf {w : Word} {i : Instr} (h : IsWordOf w i) : decode w = some i := by
  obtain ⟨hrow, hfields⟩ := h
  cases i with
  | cls | ret =>
    obtain rfl := satisfiedBy_FFFF_iff.1 hrow
    rfl
  | jp | call | seImm | sneImm | ldImm | addImm | ldI | jpV0 | rnd | drw =>
    simp only [operandsAreFields] at hfields
    simp only [decode, (satisfiedBy_F000_iff (by decide)).1 hrow, hfields]
    rfl
  | seReg | sneReg | ldReg | orReg | andReg | xorReg | addReg | subReg | shr | subnReg | shl =>
    obtain ⟨hop, hn⟩ := (satisfiedBy_F00F_iff (by decide)).1 hrow
    simp only [operandsAreFields] at hfields
    simp only [decode, decode8, hop, hn, hfields]
    rfl
  | skp | sknp | ldVxDT | ldVxK | ldDTVx | ldSTVx | addI | ldF | ldB | storeRegs | loadRegs =>
    obtain ⟨hop, hnn⟩ := (satisfiedBy_F0FF_iff (by decide)).1 hrow
    simp only [operandsAreFields] at hfields
    simp only [decode, decodeE, decodeF, hop, hnn, hfields]
    rfl

/-! ### The fields of the encoder's words (R73, R86) -/

section

variable {base : Nat}

theorem fieldNnn_packNnn (hbase : base + 4095 < 65536) (hlow : base % 4096 = 0) (nnn : Addr) :
    fieldNnn (packNnn base nnn) = nnn := by
  rw [BitVec.toNat_eq, toNat_fieldNnn, toNat_packNnn hbase]
  omega

theorem fields_packXnn (hbase : base + 4095 < 65536) (hlow : base % 4096 = 0) (x : Reg) (nn : Byte) :
    x = fieldX (packXnn base x nn) ∧ nn = fieldNn (packXnn base x nn) := by
  rw [Fin.ext_iff, BitVec.toNat_eq, val_fieldX, toNat_fieldNn, toNat_packXnn hbase]
  omega

theorem fields_packXy (hbase : base + 4080 < 65536) (hlow : base % 4096 < 16) (x y : Reg) :
    x = fieldX (packXy base x y) ∧ y = fieldY (packXy base x y) := by
  rw [Fin.ext_iff, Fin.ext_iff, val_fieldX, val_fieldY, toNat_packXy hbase]
  omega

theorem fields_packXyn (hbase : base + 4095 < 65536) (hlow : base % 4096 = 0) (x y : Reg) (n : Nibble) :
    x = fieldX (packXyn base x y n) ∧ y = fieldY (packXyn base x y n) ∧ n = fieldN (packXyn base x y n) := by
  rw [Fin.ext_iff, Fin.ext_iff, BitVec.toNat_eq, val_fieldX, val_fieldY, toNat_fieldN, toNat_packXyn hbase]
  omega

theorem fieldX_packX (hbase : base + 3840 < 65536) (hlow : base % 4096 < 256) (x : Reg) :
    x = fieldX (packX base x) := by
  rw [Fin.ext_iff, val_fieldX, toNat_packX hbase]
  omega

end

/-- The encoder puts each operand in its field. -/
theorem operandsAreFields_encode (i : Instr) : operandsAreFields (encode i) i := by
  cases i with
  | cls | ret => trivial
  | jp nnn | call nnn | ldI nnn | jpV0 nnn => exact (fieldNnn_packNnn (by decide) (by decide) nnn).symm
  | seImm x nn | sneImm x nn | ldImm x nn | addImm x nn | rnd x nn =>
    exact fields_packXnn (by decide) (by decide) x nn
  | seReg x y | sneReg x y | ldReg x y | orReg x y | andReg x y | xorReg x y | addReg x y | subReg x y | subnReg x y =>
    exact fields_packXy (by decide) (by decide) x y
  | drw x y n => exact fields_packXyn (by decide) (by decide) x y n
  | shr x | shl x | skp x | sknp x | ldVxDT x | ldVxK x | ldDTVx x | ldSTVx x | addI x | ldF x | ldB x | storeRegs x
  | loadRegs x => exact fieldX_packX (by decide) (by decide) x

open Laws in
/-- The laws of family EncodesItsRow, gathered over all instructions. -/
theorem encodesItsRow : ∀ i : Instr, EncodesItsRow.Statement i
  | .cls => EncodesItsRow.cls
  | .ret => EncodesItsRow.ret
  | .jp nnn => EncodesItsRow.jp nnn
  | .call nnn => EncodesItsRow.call nnn
  | .seImm x nn => EncodesItsRow.seImm x nn
  | .sneImm x nn => EncodesItsRow.sneImm x nn
  | .seReg x y => EncodesItsRow.seReg x y
  | .ldImm x nn => EncodesItsRow.ldImm x nn
  | .addImm x nn => EncodesItsRow.addImm x nn
  | .ldReg x y => EncodesItsRow.ldReg x y
  | .orReg x y => EncodesItsRow.orReg x y
  | .andReg x y => EncodesItsRow.andReg x y
  | .xorReg x y => EncodesItsRow.xorReg x y
  | .addReg x y => EncodesItsRow.addReg x y
  | .subReg x y => EncodesItsRow.subReg x y
  | .shr x => EncodesItsRow.shr x
  | .subnReg x y => EncodesItsRow.subnReg x y
  | .shl x => EncodesItsRow.shl x
  | .sneReg x y => EncodesItsRow.sneReg x y
  | .ldI nnn => EncodesItsRow.ldI nnn
  | .jpV0 nnn => EncodesItsRow.jpV0 nnn
  | .rnd x nn => EncodesItsRow.rnd x nn
  | .drw x y n => EncodesItsRow.drw x y n
  | .skp x => EncodesItsRow.skp x
  | .sknp x => EncodesItsRow.sknp x
  | .ldVxDT x => EncodesItsRow.ldVxDT x
  | .ldVxK x => EncodesItsRow.ldVxK x
  | .ldDTVx x => EncodesItsRow.ldDTVx x
  | .ldSTVx x => EncodesItsRow.ldSTVx x
  | .addI x => EncodesItsRow.addI x
  | .ldF x => EncodesItsRow.ldF x
  | .ldB x => EncodesItsRow.ldB x
  | .storeRegs x => EncodesItsRow.storeRegs x
  | .loadRegs x => EncodesItsRow.loadRegs x

/-- Settles O3: the encoded word is of the instruction's row with the operands in its fields, and such a word decodes
to the instruction. -/
theorem encodedInstructionDecodesToItself : Obligations.EncodedInstructionDecodesToItself := fun i =>
  decode_of_isWordOf ⟨(encodesItsRow i).2, operandsAreFields_encode i⟩

/-- Settles O5: the low nibble selects the shift whatever y is, and y is no operand of it. -/
theorem shiftsIgnoreTheYField : Obligations.ShiftsIgnoreTheYField := by
  intro x y
  have hx6 := (fields_packXy (base := 0x8006) (by decide) (by decide) x y).1
  have hxE := (fields_packXy (base := 0x800E) (by decide) (by decide) x y).1
  refine ⟨decode_of_isWordOf ⟨Laws.EncodesItsRow.satisfied_F00F ?_, hx6⟩,
    decode_of_isWordOf ⟨Laws.EncodesItsRow.satisfied_F00F ?_, hxE⟩⟩
  · rw [toNat_packXy (by decide), BitVec.toNat_ofNat]
    omega
  · rw [toNat_packXy (by decide), BitVec.toNat_ofNat]
    omega

/-- Settles O6, by running the decoder on each of the words. -/
theorem sampleWordsDecode : Obligations.SampleWordsDecode := by
  unfold Obligations.SampleWordsDecode
  decide

/-! ### The illegal words (R84) -/

section

variable (w : Word)

theorem decode0_eq_none_iff : decode0 w = none ↔ w ≠ 0x00E0#16 ∧ w ≠ 0x00EE#16 := by
  unfold decode0
  split
  next hw => simp [hw]
  split
  next hw => simp [hw]
  next hcls hret => simp [hcls, hret]

theorem decode8_eq_none_iff :
    decode8 w = none ↔ (fieldN w).toNat ∈ [0x8, 0x9, 0xA, 0xB, 0xC, 0xD, 0xF] := by
  unfold decode8
  split
  case h_10 =>
    have := (fieldN w).isLt
    simp only [imp_false, List.mem_cons, List.not_mem_nil, or_false, true_iff] at *
    omega
  all_goals next hn => simp [hn]

theorem decodeE_eq_none_iff : decodeE w = none ↔ (fieldNn w).toNat ∉ [0x9E, 0xA1] := by
  unfold decodeE
  split
  case h_3 =>
    simp only [imp_false, List.mem_cons, List.not_mem_nil, or_false, not_or, true_iff] at *
    omega
  all_goals next hnn => simp [hnn]

theorem decodeF_eq_none_iff :
    decodeF w = none ↔ (fieldNn w).toNat ∉ [0x07, 0x0A, 0x15, 0x18, 0x1E, 0x29, 0x33, 0x55, 0x65] := by
  unfold decodeF
  split
  case h_10 =>
    simp only [imp_false, List.mem_cons, List.not_mem_nil, or_false, not_or, true_iff] at *
    omega
  all_goals next hnn => simp [hnn]

end

/-- Settles O4: each family of the table is the family of the decoder that answers nothing on just those words. -/
theorem illegalWordsAreTheTablesWords : Obligations.IllegalWordsAreTheTablesWords := by
  intro w
  unfold decode illegalByTable
  split
  case h_16 =>
    have hop : (fieldOp w).toNat = 0xF := by simp only [imp_false] at *; omega
    simp [hop, decodeF_eq_none_iff]
  all_goals
    next hop => simp [hop, decode0_eq_none_iff, decode8_eq_none_iff, decodeE_eq_none_iff]

end Sys2Proof.Machine

/-! SUPPORT. Proofs for the statements of the fatals (spec 60_exceptions): the fatals of CALL and RET, the one shape that
every other body has, and the machine that is dead. -/

namespace Sys2Proof.Machine

/-! ### The fatals of the bodies (R191, R194, R198, R199) -/

/-- A CALL is fatal exactly on a full stack. -/
theorem exec_call_eq_fault_iff {s : State} {nnn : Addr} {f : Fault} :
    exec (.call nnn) s = .fault f ↔ s.sp.val = 16 ∧ f = .stackOverflow s.pc := by
  obtain ⟨hfull, hpush⟩ | ⟨hlt, hpush⟩ := s.push_cases s.pc
  · simp [exec, execCall, hpush, raiseFatal, hfull, eq_comm]
  · simp [exec, execCall, hpush, hlt.ne]

/-- A RET is fatal exactly on an empty stack. -/
theorem exec_ret_eq_fault_iff {s : State} {f : Fault} :
    exec .ret s = .fault f ↔ s.sp.val = 0 ∧ f = .stackUnderflow s.pc := by
  obtain ⟨hempty, hpop⟩ | ⟨hpos, _, hpop⟩ := s.pop_cases
  · simp [exec, execRet, hpop, raiseFatal, hempty, eq_comm]
  · simp [exec, execRet, hpop, hpos.ne']

/-- Every body but those of CALL and RET checks the range of its data, which may be empty, and completes. -/
theorem exec_eq_withDataRange {i : Instr} (s : State) (hi : usesStack i = false) :
    ∃ t, exec i s = withDataRange s (dataCount i) t := by
  cases i with
  | ret | call => cases hi
  | drw | ldB | storeRegs | loadRegs => exact ⟨_, rfl⟩
  | ldVxK x =>
    cases hk : leastKey s with
    | none => exact ⟨_, (exec_ldVxK_of_noKey x hk).trans (withDataRange_of_inRange _ (.inl rfl)).symm⟩
    | some k => exact ⟨_, (exec_ldVxK_of_leastKey x hk).trans (withDataRange_of_inRange _ (.inl rfl)).symm⟩
  | _ => exact ⟨_, (withDataRange_of_inRange _ (.inl rfl)).symm⟩

theorem withDataRange_ne_refused (s : State) (count : Nat) (t : State) (r : Refusal) :
    withDataRange s count t ≠ .refused r := by
  unfold withDataRange
  split <;> simp [raiseFatal]

theorem exec_ne_refused (i : Instr) (s : State) (r : Refusal) : exec i s ≠ .refused r := by
  cases hi : usesStack i with
  | false =>
    obtain ⟨t, ht⟩ := exec_eq_withDataRange s hi
    rw [ht]
    exact withDataRange_ne_refused s _ t r
  | true =>
    cases i with
    | call nnn =>
      simp only [exec, execCall]
      split <;> simp [raiseFatal]
    | ret =>
      simp only [exec, execRet]
      split <;> simp [raiseFatal]
    | _ => cases hi

/-- The three ways in which a body can be fatal. -/
theorem exec_eq_fault_iff {i : Instr} {s : State} {f : Fault} :
    exec i s = .fault f ↔
      ((∃ nnn, i = .call nnn) ∧ s.sp.val = 16 ∧ f = .stackOverflow s.pc) ∨
      (i = .ret ∧ s.sp.val = 0 ∧ f = .stackUnderflow s.pc) ∨
      (0 < dataCount i ∧ s.i.toNat + (dataCount i - 1) > 0xFFF ∧
        f = .dataAccessOutOfBounds (max s.i.toNat 0x1000)) := by
  cases hi : usesStack i with
  | false =>
    obtain ⟨t, ht⟩ := exec_eq_withDataRange s hi
    have hcall : ¬ ∃ nnn, i = .call nnn := by rintro ⟨nnn, rfl⟩; cases hi
    have hret : i ≠ .ret := by rintro rfl; cases hi
    simp only [ht, withDataRange_eq_fault_iff, hcall, hret, false_and, false_or, and_assoc]
    refine and_congr_right fun hpos => and_congr_left' ?_
    omega
  | true =>
    cases i with
    | call nnn => simp [exec_call_eq_fault_iff, dataCount]
    | ret => simp [exec_ret_eq_fault_iff, dataCount]
    | _ => cases hi

/-- Settles O24: CALL and RET fail on the stack alone and every other body on its data range alone, and with I inside the
bound of `Inv` the least address above 0xFFF is 0x1000. -/
theorem bodyFatalsAreExactlyThese : Obligations.BodyFatalsAreExactlyThese := by
  refine fun i s => ⟨fun f => exec_eq_fault_iff, exec_ne_refused i s, fun hs a h => ?_⟩
  obtain ⟨-, -, hf⟩ | ⟨-, -, hf⟩ | ⟨-, -, hf⟩ := exec_eq_fault_iff.1 h
  · cases hf
  · cases hf
  · have hi := hs.indexBound
    cases hf
    omega

/-- A fatal body makes the step that fatal, and the stack is kept. -/
theorem step_of_exec_fault {s : State} {i : Instr} {f : Fault} (hi : NextInstr s i) (h : exec i s = .fault f) :
    step s = .fault f ∧ KeepsStack s (stepHost s) := by
  obtain ⟨-, -, hfault⟩ := stepRunsTheFetchedInstruction s i hi
  have hstep := hfault f h
  rw [stepHost_of_fault hstep]
  exact ⟨hstep, rfl, rfl⟩

/-- Settles O25: each body is fatal exactly on its bound of SP, and the fatal it enters leaves the stack. -/
theorem fullAndEmptyStackAreFatal : Obligations.FullAndEmptyStackAreFatal := by
  refine ⟨fun s nnn => ⟨?_, fun hsp => exec_call_eq_fault_iff.2 ⟨hsp, rfl⟩⟩,
    fun s => ⟨?_, fun hsp => exec_ret_eq_fault_iff.2 ⟨hsp, rfl⟩⟩,
    fun s nnn hi hsp => step_of_exec_fault hi (exec_call_eq_fault_iff.2 ⟨hsp, rfl⟩),
    fun s hi hsp => step_of_exec_fault hi (exec_ret_eq_fault_iff.2 ⟨hsp, rfl⟩)⟩
  · simp only [exec_call_eq_fault_iff, exists_and_left, exists_eq, and_true]
  · simp only [exec_ret_eq_fault_iff, exists_and_left, exists_eq, and_true]

/-! ### The fatal is final (R196, R197) -/

theorem whenAlive_eq_fault_iff {α : Type} {s : State} {op : Host.Outcome α Fault Refusal} {f : Fault} :
    whenAlive s op = .fault f ↔ s.fatal = none ∧ op = .fault f := by
  unfold whenAlive
  split <;> simp_all

/-- A dead machine refuses every operation. -/
theorem whenAlive_of_dead {α : Type} {s : State} {f : Fault} (h : s.fatal = some f)
    (op : Host.Outcome α Fault Refusal) : whenAlive s op = .refused (.machineDead f) := by
  simp only [whenAlive, h]

/-- Settles O11: every operation, the step included, runs only on an alive machine, and a step's fatal is entered by
setting FATAL. -/
theorem fatalSetsOnlyFatalAndIsFinal : Obligations.FatalSetsOnlyFatalAndIsFinal := by
  refine ⟨fun s f h => ⟨(whenAlive_eq_fault_iff.1 h).1, stepHost_of_fault h⟩, fun s f hdead => ?_⟩
  have hstep : step s = .refused (.machineDead f) := whenAlive_of_dead hdead _
  exact ⟨by rw [stepHost, hstep, afterOutcome], hstep, fun _ => whenAlive_of_dead hdead _,
    fun _ _ => whenAlive_of_dead hdead _, whenAlive_of_dead hdead _, whenAlive_of_dead hdead _⟩

end Sys2Proof.Machine

/-! SUPPORT. Proofs for the remaining frame statements (spec 10_state, 00_scope section 5): what each instruction leaves
of I, memory, the stack and the registers, and the registers after Construct. -/

namespace Sys2Proof.Machine

/-- Settles O16: no change but that of I touches it. -/
theorem indexWrittenByThreeInstructions : Obligations.IndexWrittenByThreeInstructions := fun _ _ _ => exec_keeps_i

/-- Settles O20: no change but that of the stack touches it. -/
theorem stackTouchedByCallAndRetOnly : Obligations.StackTouchedByCallAndRetOnly := fun _ _ _ => exec_keeps_stack

section

variable {i : Instr} {s t : State} (h : exec i s = .next t)

include h

theorem exec_keeps_mem (hi : storesToMemory i = false) : t.mem = s.mem := by
  refine exec_keeps State.mem (fun u v hc => ?_) h
  cases hc with
  | storeBytes a bytes hw => simp [hi] at hw
  | _ => rfl

theorem exec_keeps_getV {r : Reg} (hi : writesReg r i = false) : t.getV r = s.getV r := by
  refine exec_keeps (State.getV · r) (fun u v hc => ?_) h
  cases hc with
  | setV x b hw =>
    have hne : r ≠ x := by rintro rfl; simp [hi] at hw
    exact u.getV_setV_of_ne b hne
  | loadV x bytes hw =>
    have hlt : ¬ r ≤ x := fun hle => by simpa [hi] using hw r hle
    exact (u.getV_loadV x r bytes).trans (if_neg hlt)
  | _ => rfl

end

/-- Settles O17: no change but a store touches memory. -/
theorem memoryWrittenByTwoInstructions : Obligations.MemoryWrittenByTwoInstructions := by
  intro i s t h hi
  have hmem := exec_keeps_mem h hi
  exact ⟨fun a => congrArg (Memory.read · a) hmem, congrArg Memory.font hmem⟩

/-- Settles O21: no change touches a register that the instruction does not write. -/
theorem registersWrittenAreTheDestinations : Obligations.RegistersWrittenAreTheDestinations :=
  fun _ _ _ h _ => exec_keeps_getV h

/-- Settles O27: Construct copies RESET field by field, and each field of the default RESET is zero, false or empty. -/
theorem resetLeavesTheRestZero : Obligations.ResetLeavesTheRestZero := by
  refine ⟨?_, ?_, rfl, rfl, rfl, rfl⟩
  · rintro reset font s rfl
    exact ⟨fun _ => rfl, rfl, rfl, rfl, rfl, rfl, rfl, rfl, fun _ => rfl, rfl⟩
  · rintro font s rfl
    refine ⟨fun r => ?_, rfl, rfl, fun k => ?_, rfl, rfl, cell_replicate_zero, rfl, fun k => ?_⟩
    · exact Vector.getElem_replicate r.isLt
    · exact Vector.getElem_replicate k.isLt
    · exact Vector.getElem_replicate k.isLt

end Sys2Proof.Machine

/-! SUPPORT. Proofs for the remaining statements of arithmetic (spec 43_alu) and of the host interface (spec
50_host_interface): the logic instructions, the flag with VF as destination, Load and sound_active. -/

namespace Sys2Proof.Machine

/-! ### Logic (R123 to R125) -/

/-- A body that writes one register and advances: what the register holds and the frame. -/
theorem exec_setV_advance {s : State} {i : Instr} {x : Reg} {b : Byte} (P : Byte → Prop)
    (hexec : exec i s = .next (s.setV x b).advance) (hb : P b) :
    ∃ t, exec i s = .next t ∧ t.pc = s.pc + 2#16 ∧ OnlyRegsAndPc [x] s t ∧ P (t.getV x) :=
  ⟨_, hexec, rfl, onlyRegsAndPc_setV_advance s x b, by rwa [State.advance_getV, State.getV_setV_self]⟩

/-- Settles O43: each body writes the bitwise operation of its operands to Vx. -/
theorem logicActsBitByBitAndLeavesVF : Obligations.LogicActsBitByBitAndLeavesVF := fun s x y =>
  ⟨exec_setV_advance (fun b => ∀ k, b.getLsbD k = ((s.getV x).getLsbD k || (s.getV y).getLsbD k)) rfl
      fun _ => BitVec.getLsbD_or,
    exec_setV_advance (fun b => ∀ k, b.getLsbD k = ((s.getV x).getLsbD k && (s.getV y).getLsbD k)) rfl
      fun _ => BitVec.getLsbD_and,
    exec_setV_advance (fun b => ∀ k, b.getLsbD k = ((s.getV x).getLsbD k ^^ (s.getV y).getLsbD k)) rfl
      fun _ => BitVec.getLsbD_xor⟩

/-! ### VF as destination (R131) -/

/-- With VF as destination the flag overwrites the result. -/
theorem setResultAndFlag_vf (s : State) (b f : Byte) : s.setResultAndFlag vf b f = s.setV vf f := by
  simp [State.setResultAndFlag, State.setV]

/-- A body that writes a result and the flag to VF leaves the flag there, as a number, and writes nothing else. -/
theorem exec_flag_vf {s : State} {i : Instr} {b f : Byte} {flag : Nat}
    (hexec : exec i s = .next (s.setResultAndFlag vf b f).advance) (hf : f.toNat = flag) :
    ∃ t, exec i s = .next t ∧ t.pc = s.pc + 2#16 ∧ OnlyRegsAndPc [vf] s t ∧ (t.getV vf).toNat = flag := by
  rw [setResultAndFlag_vf] at hexec
  exact exec_setV_advance (·.toNat = flag) hexec hf

/-- Settles O45, row by row, by the number of each flag. -/
theorem flagWinsWhenVFIsTheDestination : Obligations.FlagWinsWhenVFIsTheDestination := fun _ _ =>
  ⟨exec_flag_vf rfl (toNat_carryFlag _ _), exec_flag_vf rfl (toNat_noBorrowFlag _ _),
    exec_flag_vf rfl (toNat_noBorrowFlag _ _), exec_flag_vf rfl (toNat_shiftRightFlag _),
    exec_flag_vf rfl (toNat_shiftLeftFlag _)⟩

/-! ### Load (R172) -/

/-- Settles O31: an image that fits is one block stored at 0x200, which ends inside memory. -/
theorem loadCopiesTheImage : Obligations.LoadCopiesTheImage := by
  intro image s halive hlen
  have hfits : image.length ≤ maxImage := Nat.le_of_lt_succ hlen
  refine ⟨_, loadImage_eq_next_iff.2 ⟨halive, (if_pos hfits).symm⟩, fun hm k hk => ?_, fun a ha => ?_, rfl,
    Memory.font_writeBytes _ _ _⟩
  · exact Memory.read_writeBytes_inside hm (by simp only [progBase, memSize]; omega) k hk
  · exact Memory.read_writeBytes_outside _ _ _ _ ha

/-! ### sound_active (R179) -/

theorem soundActive_of_alive {s : State} (halive : s.fatal = none) :
    soundActive s = .next (decide (s.st.toNat ≠ 0)) := by
  have hst : (s.st != 0) = decide (s.st.toNat ≠ 0) := by
    rw [Bool.eq_iff_iff, bne_iff_ne, decide_eq_true_eq, ne_eq, ne_eq, BitVec.toNat_eq]
    rfl
  simp only [soundActive, whenAlive, halive, hst]

/-- Settles O36: the step of Fx18 leaves in ST what the tick makes of Vx, one less. -/
theorem soundIsSeenWhileSTIsNonzero : Obligations.SoundIsSeenWhileSTIsNonzero := by
  refine ⟨fun s => soundActive_of_alive, fun s x hi => ?_⟩
  have hstep : step s = .next (s.setST (s.getV x)).advance.tick := step_of_exec_next hi rfl
  have hst : (s.setST (s.getV x)).advance.tick.st.toNat = (s.getV x).toNat - 1 := tickTimer_toNat _
  obtain ⟨halive, -⟩ := hi
  refine ⟨_, hstep, ?_⟩
  rw [soundActive_of_alive (s := (s.setST (s.getV x)).advance.tick) halive, hst]
  exact congrArg Host.Outcome.next (decide_eq_decide.2 (by omega))

end Sys2Proof.Machine
